-- ==== Sys2Proof/Word.lean ====
section
/-! DEFINITION. The widths of the block: spec/00_scope.md R5, spec/10_state.md R14 to R20. Every value of the machine is
unsigned (R7); each type holds exactly the range the spec gives the value (R24), so that "masked on every write" holds
by type. -/

namespace Sys2Proof

/-- The word of the processor: an index register, the accumulator, a 4-bit operand or datum (R5, R12). -/
abbrev Nibble := BitVec 4

/-- A byte of program storage (R32); also the 8-bit value of a register pair (R15) and a data address (R34). -/
abbrev Byte := BitVec 8

/-- A program address: `pc`, a stack slot, the target of JUN and JMS (R18, R19). -/
abbrev Addr := BitVec 12

/-- The index of a register pair, 0 to 7 (R15). -/
abbrev PairIdx := BitVec 3

/-- A RAM bank number, 0 to 3 (R36). -/
abbrev BankIdx := BitVec 2

/-- A status channel number, 0 to 3 (R39). -/
abbrev ChannelIdx := BitVec 2

end Sys2Proof
end

