-- ==== Sys2Proof/Machine/Flags.lean ====
section
/-! DEFINITION. The arithmetic of the accumulator: each operation gives the new accumulator and the new carry
(spec/42_register.md R99, spec/44_accumulator.md). Additions and subtractions are computed exactly, on integers, and
narrowed at the end; `mod 16` is Euclidean (R7, decision D13, assumption log 14). -/

namespace Sys2Proof.Machine

/-- `sum := a + v`; result `sum mod 16`, carry `sum > 15`; the incoming carry is not added (R94, R111). -/
def addNibbles (a v : Nibble) : Nibble × Bool :=
  let sum : Nat := a.toNat + v.toNat
  (BitVec.ofNat 4 sum, decide (15 < sum))

/-- `diff := a - v - (cy ? 0 : 1)`; result `diff mod 16`, carry `diff >= 0`, a not-borrow (R95, R108). -/
def subNibbles (a v : Nibble) (cy : Bool) : Nibble × Bool :=
  let diff : Int := (a.toNat : Int) - (v.toNat : Int) - (if cy then 0 else 1)
  (BitVec.ofInt 4 diff, decide (0 ≤ diff))

/-- The increment of INC and ISZ: `(v + 1) mod 16`, no flag (R88, R93). -/
def incNibble (v : Nibble) : Nibble := v + 1

/-- IAC: `(a + 1) mod 16`, carry when the new value is 0 (R122). -/
def incrementAcc (a : Nibble) : Nibble × Bool := (a + 1, a + 1 == 0)

/-- DAC: `(a - 1) mod 16`, carry when the new value is not 15 (R128). -/
def decrementAcc (a : Nibble) : Nibble × Bool := (a - 1, a - 1 != 15)

/-- CMA: `15 - a` (R124). -/
def complementAcc (a : Nibble) : Nibble := 15 - a

/-- RAL: `ACC <- (ACC[2:0], CY)`, `CY <- ACC[3]` (R125; the direction is decision D14, assumption log 15). -/
def rotateLeft (a : Nibble) (cy : Bool) : Nibble × Bool :=
  (a.extractLsb' 0 3 ++ BitVec.ofBool cy, a.getLsbD 3)

/-- RAR: `ACC <- (CY, ACC[3:1])`, `CY <- ACC[0]` (R126; the direction is decision D14, assumption log 15). -/
def rotateRight (a : Nibble) (cy : Bool) : Nibble × Bool :=
  (BitVec.ofBool cy ++ a.extractLsb' 1 3, a.getLsbD 0)

/-- TCC's result: the carry as a number (R127). -/
def carryDigit (cy : Bool) : Nibble := if cy then 1 else 0

/-- TCS's result: 10 with the carry, 9 without (R129). -/
def subtractDigit (cy : Bool) : Nibble := if cy then 10 else 9

/-- DAA: above 9, or with the carry set, add 6 and set the carry; otherwise nothing changes (R131). -/
def decimalAdjust (a : Nibble) (cy : Bool) : Nibble × Bool :=
  if decide (9 < a.toNat) || cy then (a + 6, true) else (a, cy)

/-- KBP: a one-hot pattern gives its bit index, every other pattern 15 (R132). -/
def keyboardCode (a : Nibble) : Nibble :=
  match a with
  | 0b0001#4 => 0
  | 0b0010#4 => 1
  | 0b0100#4 => 2
  | 0b1000#4 => 3
  | _ => 15

end Sys2Proof.Machine
end

