-- ==== Sys2Proof/Syntax.lean ====
section
/-! DEFINITION. The instruction set: the closed set of 45 named variants and UNKNOWN (spec/30_encoding.md R55), each with
exactly the operand fields R65 gives it. Each field has the type of its range, so an Instruction value with a field out
of range does not exist (R65, decision D23, assumption log 24). The decoder is `Decode.lean`, the meanings are under
`Machine/`. -/

namespace Sys2Proof

/-- An instruction. Operand names are the spec's: `r` a register, `p` a pair, `d` immediate data, `c` the condition
nibble, `a` an 8-bit address, `t` a 12-bit address (R54, R65). -/
inductive Instr where
  /-- `NOP` (R83): no effect. -/
  | nop
  /-- `JCN` (R84): jump on condition. -/
  | jcn (c : Nibble) (a : Byte)
  /-- `FIM` (R91): fetch immediate into a pair. -/
  | fim (p : PairIdx) (d : Byte)
  /-- `SRC` (R100): send a pair's value to the address-select port. -/
  | src (p : PairIdx)
  /-- `FIN` (R92): fetch indirect: the program byte pair 0 points to, into a pair. -/
  | fin (p : PairIdx)
  /-- `JIN` (R85): jump indirect. -/
  | jin (p : PairIdx)
  /-- `JUN` (R86): jump unconditional. -/
  | jun (t : Addr)
  /-- `JMS` (R87): jump to subroutine. -/
  | jms (t : Addr)
  /-- `INC` (R93): increment register. -/
  | inc (r : Nibble)
  /-- `ISZ` (R88): increment register, jump if the result is zero. -/
  | isz (r : Nibble) (a : Byte)
  /-- `ADD` (R94): add register. -/
  | add (r : Nibble)
  /-- `SUB` (R95): subtract register. -/
  | sub (r : Nibble)
  /-- `LD` (R96): load accumulator from register. -/
  | ld (r : Nibble)
  /-- `XCH` (R97): exchange accumulator and register. -/
  | xch (r : Nibble)
  /-- `BBL` (R89): branch back and load. -/
  | bbl (d : Nibble)
  /-- `LDM` (R98): load immediate. -/
  | ldm (d : Nibble)
  /-- `WRM` (R101): write data memory. -/
  | wrm
  /-- `WMP` (R102): write output port 0. -/
  | wmp
  /-- `WRR` (R103): write ROM port: no effect. -/
  | wrr
  /-- `WR0` (R104): write status channel 0. -/
  | wr0
  /-- `WR1` (R105): write status channel 1. -/
  | wr1
  /-- `WR2` (R106): write status channel 2. -/
  | wr2
  /-- `WR3` (R107): write status channel 3. -/
  | wr3
  /-- `SBM` (R108): subtract data memory. -/
  | sbm
  /-- `RDM` (R109): read data memory. -/
  | rdm
  /-- `RDR` (R110): read ROM port: no effect. -/
  | rdr
  /-- `ADM` (R111): add data memory. -/
  | adm
  /-- `RD0` (R112): read status channel 0. -/
  | rd0
  /-- `RD1` (R113): read status channel 1. -/
  | rd1
  /-- `RD2` (R114): read status channel 2. -/
  | rd2
  /-- `RD3` (R115): read status channel 3. -/
  | rd3
  /-- `CLB` (R120): clear accumulator and carry. -/
  | clb
  /-- `CLC` (R121): clear carry. -/
  | clc
  /-- `IAC` (R122): increment accumulator. -/
  | iac
  /-- `CMC` (R123): complement carry. -/
  | cmc
  /-- `CMA` (R124): complement accumulator. -/
  | cma
  /-- `RAL` (R125): rotate left through carry. -/
  | ral
  /-- `RAR` (R126): rotate right through carry. -/
  | rar
  /-- `TCC` (R127): transfer carry and clear. -/
  | tcc
  /-- `DAC` (R128): decrement accumulator. -/
  | dac
  /-- `TCS` (R129): transfer carry subtract. -/
  | tcs
  /-- `STC` (R130): set carry. -/
  | stc
  /-- `DAA` (R131): decimal adjust accumulator. -/
  | daa
  /-- `KBP` (R132): keyboard process. -/
  | kbp
  /-- `DCL` (R116): designate command line (select the RAM bank). -/
  | dcl
  /-- `UNKNOWN` (R135): a byte outside the opcode map: one diagnostic, no state change. -/
  | unknown
  deriving DecidableEq, Repr

/-- The names of the variants (R55), without operands. -/
inductive Mnemonic where
  | nop | jcn | fim | src | fin | jin | jun | jms
  | inc | isz | add | sub | ld | xch | bbl | ldm
  | wrm | wmp | wrr | wr0 | wr1 | wr2 | wr3 | sbm
  | rdm | rdr | adm | rd0 | rd1 | rd2 | rd3 | clb
  | clc | iac | cmc | cma | ral | rar | tcc | dac
  | tcs | stc | daa | kbp | dcl | unknown
  deriving DecidableEq, Repr

/-- The kinds of operand field (R65). -/
inductive OperandKind where
  | register | pair | nibble | byte | address
  deriving DecidableEq, Repr

/-- How many values an operand field of a kind has: a register 0..15, a pair 0..7, a nibble 0..15, a byte 0..255, an
address 0..4095 (R65). -/
def OperandKind.bound : OperandKind → Nat
  | .register => 16
  | .pair => 8
  | .nibble => 16
  | .byte => 256
  | .address => 4096

/-- An instruction as a line gives it: a mnemonic and its operands as numbers, in the order of R65 (R63). -/
structure RawInstr where
  mnemonic : Mnemonic
  operands : List Nat
  deriving DecidableEq, Repr

end Sys2Proof
end

