-- ==== Sys2Proof/WellFormed.lean ====
section
/-! DEFINITION. Which instruction lines are well-formed: the operand count and the operand ranges of spec/30_encoding.md
R65. A value of `Instr` satisfies them by its type (assumption log 24); the checks are stated on `RawInstr`, the line of
R63 with its operands as unbounded numbers, where an ill-formed value (register 16, pair 8, address 4096: decision D23)
can be written down and is refused. -/

namespace Sys2Proof

/-- The operand fields of each variant, in order (R65). -/
def Mnemonic.shape : Mnemonic → List OperandKind
  | .nop => []
  | .jcn => [.nibble, .byte]
  | .fim => [.pair, .byte]
  | .src => [.pair]
  | .fin => [.pair]
  | .jin => [.pair]
  | .jun => [.address]
  | .jms => [.address]
  | .inc => [.register]
  | .isz => [.register, .byte]
  | .add => [.register]
  | .sub => [.register]
  | .ld => [.register]
  | .xch => [.register]
  | .bbl => [.nibble]
  | .ldm => [.nibble]
  | .wrm => []
  | .wmp => []
  | .wrr => []
  | .wr0 => []
  | .wr1 => []
  | .wr2 => []
  | .wr3 => []
  | .sbm => []
  | .rdm => []
  | .rdr => []
  | .adm => []
  | .rd0 => []
  | .rd1 => []
  | .rd2 => []
  | .rd3 => []
  | .clb => []
  | .clc => []
  | .iac => []
  | .cmc => []
  | .cma => []
  | .ral => []
  | .rar => []
  | .tcc => []
  | .dac => []
  | .tcs => []
  | .stc => []
  | .daa => []
  | .kbp => []
  | .dcl => []
  | .unknown => []

/-- Every operand lies in the range of its field, and there are exactly as many as the variant has fields. -/
def operandsFit : List OperandKind → List Nat → Bool
  | [], [] => true
  | k :: ks, v :: vs => decide (v < k.bound) && operandsFit ks vs
  | _, _ => false

/-- The check of R65. -/
def RawInstr.wellFormed (i : RawInstr) : Bool := operandsFit i.mnemonic.shape i.operands

/-- The line of an instruction: its mnemonic and its operands (R63). -/
def Instr.raw : Instr → RawInstr
  | .nop => ⟨.nop, []⟩
  | .jcn c a => ⟨.jcn, [c.toNat, a.toNat]⟩
  | .fim p d => ⟨.fim, [p.toNat, d.toNat]⟩
  | .src p => ⟨.src, [p.toNat]⟩
  | .fin p => ⟨.fin, [p.toNat]⟩
  | .jin p => ⟨.jin, [p.toNat]⟩
  | .jun t => ⟨.jun, [t.toNat]⟩
  | .jms t => ⟨.jms, [t.toNat]⟩
  | .inc r => ⟨.inc, [r.toNat]⟩
  | .isz r a => ⟨.isz, [r.toNat, a.toNat]⟩
  | .add r => ⟨.add, [r.toNat]⟩
  | .sub r => ⟨.sub, [r.toNat]⟩
  | .ld r => ⟨.ld, [r.toNat]⟩
  | .xch r => ⟨.xch, [r.toNat]⟩
  | .bbl d => ⟨.bbl, [d.toNat]⟩
  | .ldm d => ⟨.ldm, [d.toNat]⟩
  | .wrm => ⟨.wrm, []⟩
  | .wmp => ⟨.wmp, []⟩
  | .wrr => ⟨.wrr, []⟩
  | .wr0 => ⟨.wr0, []⟩
  | .wr1 => ⟨.wr1, []⟩
  | .wr2 => ⟨.wr2, []⟩
  | .wr3 => ⟨.wr3, []⟩
  | .sbm => ⟨.sbm, []⟩
  | .rdm => ⟨.rdm, []⟩
  | .rdr => ⟨.rdr, []⟩
  | .adm => ⟨.adm, []⟩
  | .rd0 => ⟨.rd0, []⟩
  | .rd1 => ⟨.rd1, []⟩
  | .rd2 => ⟨.rd2, []⟩
  | .rd3 => ⟨.rd3, []⟩
  | .clb => ⟨.clb, []⟩
  | .clc => ⟨.clc, []⟩
  | .iac => ⟨.iac, []⟩
  | .cmc => ⟨.cmc, []⟩
  | .cma => ⟨.cma, []⟩
  | .ral => ⟨.ral, []⟩
  | .rar => ⟨.rar, []⟩
  | .tcc => ⟨.tcc, []⟩
  | .dac => ⟨.dac, []⟩
  | .tcs => ⟨.tcs, []⟩
  | .stc => ⟨.stc, []⟩
  | .daa => ⟨.daa, []⟩
  | .kbp => ⟨.kbp, []⟩
  | .dcl => ⟨.dcl, []⟩
  | .unknown => ⟨.unknown, []⟩

/-- An instruction is well-formed when its line is (R65). It holds of every value of `Instr`. -/
def Instr.wellFormed (i : Instr) : Bool := i.raw.wellFormed

/-- The mnemonic of an instruction. -/
def Instr.mnemonic (i : Instr) : Mnemonic := i.raw.mnemonic

end Sys2Proof
end

