-- ==== Sys2Proof/Decode.lean ====
section
/-! DEFINITION. Decoding and encoding (spec/30_encoding.md R53 to R65, spec/40_cycle.md R74). Decoding is total over the
256 first bytes: a byte outside the opcode map is the instruction UNKNOWN, not a failure (R61). What the list decoder
rejects, by name, is a list too short to hold the instruction (assumption log 21); the fetch, which always has a next
byte (R33, R73), never meets that. After the decoder stands the encoder, written from the same tables. -/

namespace Sys2Proof

/-- `b[7:4]` (R7). -/
def highNibble (b : Byte) : Nibble := b.extractLsb' 4 4

/-- `b[3:0]` (R7). -/
def lowNibble (b : Byte) : Nibble := b.extractLsb' 0 4

/-- `op[3:1]`, the pair index (R59 b). -/
def pairField (op : Byte) : PairIdx := op.extractLsb' 1 3

/-- `op[0]`, which selects between the two variants of rows 0x2 and 0x3 (R54 format FP). -/
def selectBit (op : Byte) : Bool := op.getLsbD 0

/-- Does the decoder call `fetchNext` for this first byte? (R53, R60; exactly JCN, FIM, JUN, JMS, ISZ.) -/
def isTwoByte (op : Byte) : Bool :=
  match highNibble op with
  | 0x1#4 => true
  | 0x2#4 => !selectBit op
  | 0x4#4 => true
  | 0x5#4 => true
  | 0x7#4 => true
  | _ => false

/-- The length in bytes of the instruction that a first byte opens (R60). -/
def instrLength (op : Byte) : Nat := if isTwoByte op then 2 else 1

/-- Row 0xE: selected by the full byte, in list order with the hole at 0xE3 (R57, decision D15, assumption log 16).
The argument is the low nibble of the byte. -/
def decodeRowE (lo : Nibble) : Instr :=
  match lo with
  | 0x0#4 => .wrm
  | 0x1#4 => .wmp
  | 0x2#4 => .wrr
  | 0x3#4 => .unknown
  | 0x4#4 => .wr0
  | 0x5#4 => .wr1
  | 0x6#4 => .wr2
  | 0x7#4 => .wr3
  | 0x8#4 => .sbm
  | 0x9#4 => .rdm
  | 0xA#4 => .rdr
  | 0xB#4 => .adm
  | 0xC#4 => .rd0
  | 0xD#4 => .rd1
  | 0xE#4 => .rd2
  | _ => .rd3

/-- Row 0xF: selected by the full byte, in list order; 0xFE and 0xFF are not in the map (R58, decision D15, assumption
log 16). The argument is the low nibble of the byte. -/
def decodeRowF (lo : Nibble) : Instr :=
  match lo with
  | 0x0#4 => .clb
  | 0x1#4 => .clc
  | 0x2#4 => .iac
  | 0x3#4 => .cmc
  | 0x4#4 => .cma
  | 0x5#4 => .ral
  | 0x6#4 => .rar
  | 0x7#4 => .tcc
  | 0x8#4 => .dac
  | 0x9#4 => .tcs
  | 0xA#4 => .stc
  | 0xB#4 => .daa
  | 0xC#4 => .kbp
  | 0xD#4 => .dcl
  | _ => .unknown

/-- `Decode` (R74) on a first byte and the byte `fetchNext` returns; `b2` is read only where `isTwoByte op`. A byte of
row 0x0 other than 0x00 is UNKNOWN (R61, decision D17, assumption log 17). -/
def decode (op b2 : Byte) : Instr :=
  match highNibble op with
  | 0x0#4 => if op = 0x00#8 then .nop else .unknown
  | 0x1#4 => .jcn (lowNibble op) b2
  | 0x2#4 => if selectBit op then .src (pairField op) else .fim (pairField op) b2
  | 0x3#4 => if selectBit op then .jin (pairField op) else .fin (pairField op)
  | 0x4#4 => .jun (lowNibble op ++ b2)
  | 0x5#4 => .jms (lowNibble op ++ b2)
  | 0x6#4 => .inc (lowNibble op)
  | 0x7#4 => .isz (lowNibble op) b2
  | 0x8#4 => .add (lowNibble op)
  | 0x9#4 => .sub (lowNibble op)
  | 0xA#4 => .ld (lowNibble op)
  | 0xB#4 => .xch (lowNibble op)
  | 0xC#4 => .bbl (lowNibble op)
  | 0xD#4 => .ldm (lowNibble op)
  | 0xE#4 => decodeRowE (lowNibble op)
  | _ => decodeRowF (lowNibble op)

/-- Why a list of bytes holds no instruction. -/
inductive DecodeError where
  /-- the list is empty -/
  | noFirstByte
  /-- the list ends after the first byte of a two-byte instruction -/
  | noSecondByte
  deriving DecidableEq, Repr

/-- The instruction at the head of a list of bytes, lowest address first (R46 a), and the rest of the list. -/
def decodeBytes : List Byte → Except DecodeError (Instr × List Byte)
  | [] => .error .noFirstByte
  | op :: rest =>
    if isTwoByte op then
      match rest with
      | [] => .error .noSecondByte
      | b2 :: rest' => .ok (decode op b2, rest')
    else .ok (decode op 0x00#8, rest)

/-- The bytes of the instruction whose bits are `w`, numbered as the opcode table numbers them: the first byte is bits
7..0, the second bits 15..8; bits from `nbits` up are 0. -/
def tableBytes (nbits w : Nat) : List Byte :=
  [BitVec.ofNat 8 (w % 2 ^ nbits), BitVec.ofNat 8 (w % 2 ^ nbits / 256)]

/-- The instruction the decoder reads from the table word `w` of `nbits` bits. -/
def decodeTableWord (nbits w : Nat) : Option Instr :=
  match decodeBytes (tableBytes nbits w) with
  | .ok (i, _) => some i
  | .error _ => none

/-! ## The encoder -/

/-- The bytes of an instruction, lowest address first (R54, R56, R57, R58). UNKNOWN does not carry the byte it was decoded
from (R65); the encoder writes 0xE3, the unmapped byte the source itself decodes (assumption log 20). -/
def encode : Instr → List Byte
  | .nop => [0x00#8]
  | .jcn c a => [0x1#4 ++ c, a]
  | .fim p d => [0x2#4 ++ p ++ 0#1, d]
  | .src p => [0x2#4 ++ p ++ 1#1]
  | .fin p => [0x3#4 ++ p ++ 0#1]
  | .jin p => [0x3#4 ++ p ++ 1#1]
  | .jun t => [0x4#4 ++ t.extractLsb' 8 4, t.extractLsb' 0 8]
  | .jms t => [0x5#4 ++ t.extractLsb' 8 4, t.extractLsb' 0 8]
  | .inc r => [0x6#4 ++ r]
  | .isz r a => [0x7#4 ++ r, a]
  | .add r => [0x8#4 ++ r]
  | .sub r => [0x9#4 ++ r]
  | .ld r => [0xA#4 ++ r]
  | .xch r => [0xB#4 ++ r]
  | .bbl d => [0xC#4 ++ d]
  | .ldm d => [0xD#4 ++ d]
  | .wrm => [0xE0#8]
  | .wmp => [0xE1#8]
  | .wrr => [0xE2#8]
  | .wr0 => [0xE4#8]
  | .wr1 => [0xE5#8]
  | .wr2 => [0xE6#8]
  | .wr3 => [0xE7#8]
  | .sbm => [0xE8#8]
  | .rdm => [0xE9#8]
  | .rdr => [0xEA#8]
  | .adm => [0xEB#8]
  | .rd0 => [0xEC#8]
  | .rd1 => [0xED#8]
  | .rd2 => [0xEE#8]
  | .rd3 => [0xEF#8]
  | .clb => [0xF0#8]
  | .clc => [0xF1#8]
  | .iac => [0xF2#8]
  | .cmc => [0xF3#8]
  | .cma => [0xF4#8]
  | .ral => [0xF5#8]
  | .rar => [0xF6#8]
  | .tcc => [0xF7#8]
  | .dac => [0xF8#8]
  | .tcs => [0xF9#8]
  | .stc => [0xFA#8]
  | .daa => [0xFB#8]
  | .kbp => [0xFC#8]
  | .dcl => [0xFD#8]
  | .unknown => [0xE3#8]

/-! ## Instruction lines (R63; the notation is decision D11, assumption log 33) -/

/-- The instruction of a mnemonic with its first and second operand, each taken in the width of its field; an operand the
variant does not have is not read. -/
def Mnemonic.build (m : Mnemonic) (v w : Nat) : Instr :=
  match m with
  | .nop => .nop
  | .jcn => .jcn (BitVec.ofNat 4 v) (BitVec.ofNat 8 w)
  | .fim => .fim (BitVec.ofNat 3 v) (BitVec.ofNat 8 w)
  | .src => .src (BitVec.ofNat 3 v)
  | .fin => .fin (BitVec.ofNat 3 v)
  | .jin => .jin (BitVec.ofNat 3 v)
  | .jun => .jun (BitVec.ofNat 12 v)
  | .jms => .jms (BitVec.ofNat 12 v)
  | .inc => .inc (BitVec.ofNat 4 v)
  | .isz => .isz (BitVec.ofNat 4 v) (BitVec.ofNat 8 w)
  | .add => .add (BitVec.ofNat 4 v)
  | .sub => .sub (BitVec.ofNat 4 v)
  | .ld => .ld (BitVec.ofNat 4 v)
  | .xch => .xch (BitVec.ofNat 4 v)
  | .bbl => .bbl (BitVec.ofNat 4 v)
  | .ldm => .ldm (BitVec.ofNat 4 v)
  | .wrm => .wrm
  | .wmp => .wmp
  | .wrr => .wrr
  | .wr0 => .wr0
  | .wr1 => .wr1
  | .wr2 => .wr2
  | .wr3 => .wr3
  | .sbm => .sbm
  | .rdm => .rdm
  | .rdr => .rdr
  | .adm => .adm
  | .rd0 => .rd0
  | .rd1 => .rd1
  | .rd2 => .rd2
  | .rd3 => .rd3
  | .clb => .clb
  | .clc => .clc
  | .iac => .iac
  | .cmc => .cmc
  | .cma => .cma
  | .ral => .ral
  | .rar => .rar
  | .tcc => .tcc
  | .dac => .dac
  | .tcs => .tcs
  | .stc => .stc
  | .daa => .daa
  | .kbp => .kbp
  | .dcl => .dcl
  | .unknown => .unknown

/-- The instruction a line names; a line that is not well-formed names none (R65, decision D23, assumption log 24). -/
def RawInstr.toInstr (i : RawInstr) : Option Instr :=
  if i.wellFormed then some (i.mnemonic.build (i.operands.getD 0 0) (i.operands.getD 1 0)) else none

/-- The mnemonic as the spec writes it (R55). -/
def Mnemonic.text : Mnemonic → String
  | .nop => "NOP"
  | .jcn => "JCN"
  | .fim => "FIM"
  | .src => "SRC"
  | .fin => "FIN"
  | .jin => "JIN"
  | .jun => "JUN"
  | .jms => "JMS"
  | .inc => "INC"
  | .isz => "ISZ"
  | .add => "ADD"
  | .sub => "SUB"
  | .ld => "LD"
  | .xch => "XCH"
  | .bbl => "BBL"
  | .ldm => "LDM"
  | .wrm => "WRM"
  | .wmp => "WMP"
  | .wrr => "WRR"
  | .wr0 => "WR0"
  | .wr1 => "WR1"
  | .wr2 => "WR2"
  | .wr3 => "WR3"
  | .sbm => "SBM"
  | .rdm => "RDM"
  | .rdr => "RDR"
  | .adm => "ADM"
  | .rd0 => "RD0"
  | .rd1 => "RD1"
  | .rd2 => "RD2"
  | .rd3 => "RD3"
  | .clb => "CLB"
  | .clc => "CLC"
  | .iac => "IAC"
  | .cmc => "CMC"
  | .cma => "CMA"
  | .ral => "RAL"
  | .rar => "RAR"
  | .tcc => "TCC"
  | .dac => "DAC"
  | .tcs => "TCS"
  | .stc => "STC"
  | .daa => "DAA"
  | .kbp => "KBP"
  | .dcl => "DCL"
  | .unknown => "UNKNOWN"

/-- The line of an instruction as text: the mnemonic, then its operands separated by commas (R63). -/
def Instr.text (i : Instr) : String :=
  match i.raw.operands with
  | [] => i.mnemonic.text
  | vs => i.mnemonic.text ++ " " ++ ", ".intercalate (vs.map fun v => toString v)

end Sys2Proof
end

