-- ==== Sys2Proof/Machine/Operands.lean ====
section
/-! DEFINITION. How operands name state (spec/30_encoding.md R59, spec/10_state.md R15) and the condition of JCN
(spec/41_control.md R84). -/

namespace Sys2Proof.Machine

/-- `zext_12(v)`: an 8-bit value zero-extended to an address, in 0x000..0x0FF (R9, R59 f). -/
def zext12 (v : Byte) : Addr := 0x0#4 ++ v

/-- The register that holds the low nibble of pair `p`: register `2p` (R15). -/
def evenReg (p : PairIdx) : Nibble := p ++ 0#1

/-- The register that holds the high nibble of pair `p`: register `2p + 1` (R15). -/
def oddReg (p : PairIdx) : Nibble := p ++ 1#1

/-- `v[3:0]` of a pair value (R15). -/
def pairLow (v : Byte) : Nibble := v.extractLsb' 0 4

/-- `v[7:4]` of a pair value (R15). -/
def pairHigh (v : Byte) : Nibble := v.extractLsb' 4 4

/-- Does JCN ask for the test pin? Bit 1 of the condition nibble (R40, R84; decision D9, assumption log 5). -/
def asksPin (c : Nibble) : Bool := c.getLsbD 1

/-- The condition of JCN (R84): the OR of the active tests (bit 3 carry false, bit 2 accumulator zero, bit 1 the pin's
answer), inverted when bit 0 is set. -/
def jcnCondition (c acc : Nibble) (cy pin : Bool) : Bool :=
  let t3 := c.getLsbD 3 && !cy
  let t2 := c.getLsbD 2 && acc == 0
  let t1 := c.getLsbD 1 && pin
  let r := t3 || t2 || t1
  if c.getLsbD 0 then !r else r

/-- The bank DCL selects: `ACC[1:0]` (R116). -/
def bankOf (acc : Nibble) : BankIdx := acc.extractLsb' 0 2

end Sys2Proof.Machine
end

