-- ==== Sys2Proof/Config.lean ====
section
/-! DEFINITION. What lies outside the core: the port calls through which the core reaches its collaborators
(spec/20_memory.md R31 to R43) and the open parameters P1 to P3 of spec/92_eei_decisions.md, each an uninterpreted
constant. Nothing in Lean can evaluate one of these constants, so whatever is proved holds for every content of program
storage, every data memory and every test pin. -/

namespace Sys2Proof

/-- The diagnostic record. spec/60_exceptions.md R136: one code and no context field (assumption log 8). -/
inductive Diagnostic where
  | unknownOpcode
  deriving DecidableEq, Repr

/-- The number of a diagnostic's code: `DIAG_UNKNOWN_OPCODE` = 1 (R136). -/
def Diagnostic.code : Diagnostic → Nat
  | .unknownOpcode => 1

/-- One transaction at a port of the block, with its arguments and, where the collaborator answers, the answer
(spec/00_scope.md R9, spec/20_memory.md R42, R43; assumption log 7). -/
inductive PortCall where
  /-- `MemRead(a, 1)` answered `b` (R33). -/
  | memRead (a : Addr) (b : Byte)
  /-- `DataSetAddress(v)` (R34). -/
  | dataSetAddress (v : Byte)
  /-- `DataRead()` answered `m` (R35). -/
  | dataRead (m : Nibble)
  /-- `DataWrite(v)` (R35). -/
  | dataWrite (v : Nibble)
  /-- `BankSelect(b)` (R36). -/
  | bankSelect (b : BankIdx)
  /-- `IoWriteOutput(port, v)` (R37). -/
  | ioWriteOutput (port v : Nibble)
  /-- `IoReadInput(port)` answered `v`: declared by the source, called by no rule (R38; assumption log 28). -/
  | ioReadInput (port v : Nibble)
  /-- `StatusRead(n)` answered `m` (R39). -/
  | statusRead (n : ChannelIdx) (m : Nibble)
  /-- `StatusWrite(n, v)` (R39). -/
  | statusWrite (n : ChannelIdx) (v : Nibble)
  /-- `TestPin()` answered `b` (R40). -/
  | testPin (b : Bool)
  /-- One record on the diagnostic channel (R41). -/
  | diag (d : Diagnostic)
  deriving DecidableEq, Repr

/-- The number of program addresses (R5, R32). -/
def Config.progSize : Nat := 4096

/-- Parameter P1, `ProgMem`: the byte of program storage at an address where the host has placed none
(R6, R33, 91_not_in_source.md N7; assumption log 1). A free value. -/
opaque Config.progMem : Addr → Byte

/-- Parameter P2: the answer of `DataRead` after a history of port calls (R43, U6, U16; assumption log 3).
A free value. -/
opaque Config.dataAnswer : List PortCall → Nibble

/-- Parameter P2: the answer of `StatusRead` on a channel after a history of port calls (R43, U6, U16;
assumption log 4). A free value. -/
opaque Config.statusAnswer : ChannelIdx → List PortCall → Nibble

/-- Parameter P3: the answer of `TestPin` after a history of port calls (R40, U7; assumption log 5). A free value. -/
opaque Config.pinAnswer : List PortCall → Bool

end Sys2Proof
end

