-- ==== Sys2Proof/Machine/State.lean ====
section
/-! DEFINITION. The state of the machine as plain data (spec/10_state.md): the core's CPUState (R13), and the environment
the core runs in (R26, R43): the bytes the host has placed in program storage, the answers the collaborators will give,
and the port trace. Also the reasons a step can stop, and the state after reset (R27). -/

namespace Sys2Proof.Machine

/-- The cycle phase (R21). -/
inductive Phase where
  | fetch
  | execute
  deriving DecidableEq, Repr

/-- The state. Every field of CPUState has the type of exactly its range (R24). -/
structure State where
  /-- the 16 index registers `x[0]` .. `x[15]` (R14) -/
  x : Vector Nibble 16
  /-- `ACC`, the accumulator (R16) -/
  acc : Nibble
  /-- `CY`, the carry (R17) -/
  cy : Bool
  /-- `pc`, the program counter (R18) -/
  pc : Addr
  /-- the call stack `stack[0]` .. `stack[2]` (R19) -/
  stack : Vector Addr 3
  /-- `sp`, the stack cursor (R20) -/
  sp : Fin 3
  /-- `phase` (R21) -/
  phase : Phase
  /-- `latch`, the pending instruction (R22) -/
  latch : Option Instr
  /-- `icount`, instructions executed (R23) -/
  icount : Nat
  /-- `ccount`, cycles executed (R23) -/
  ccount : Nat
  /-- program storage: the bytes the host has placed, in the canonical form `Memory.wf`; an address not listed reads as
  `Config.progMem` (R33; assumption log 1, 2) -/
  prog : List Host.Cell
  /-- the coming answers of `DataRead`, then `Config.dataAnswer` (R43; the model's own field, assumption log 3) -/
  dataIn : List Nibble
  /-- the coming answers of `StatusRead`, then `Config.statusAnswer` (R43; the model's own field, assumption log 4) -/
  statusIn : List Nibble
  /-- the coming answers of `TestPin`, then `Config.pinAnswer` (R40; the model's own field, assumption log 5) -/
  pinIn : List Bool
  /-- the port trace, oldest call first; it holds the diagnostic channel (R41, R43, R136; assumption log 7) -/
  trace : List PortCall
  deriving DecidableEq, Repr

/-- Why the machine stops with a fault. The spec has no fault (R71); this is the model's answer in a state the spec rules
out. -/
inductive Fault where
  /-- Raised by the EXECUTE phase when the latch is empty. R22 says that the latch is empty exactly when the phase is
  FETCH, so no run from reset and no state that meets the invariant raises it. Safe (assumption log 19). -/
  | emptyLatch
  deriving DecidableEq, Repr

/-- Why the model gives an instruction no meaning. -/
inductive Refusal where
  /-- Raised by an arm of `exec` whose instruction has no meaning yet; no arm is one. Safe. -/
  | notModelled (mnemonic : String)
  deriving DecidableEq, Repr

/-- What a meaning answers. -/
abbrev Result := Host.Outcome State Fault Refusal

/-- The machine right after power-on (R27): CPUState fully zeroed, phase FETCH, latch empty. The environment's fields are
the model's own: nothing placed in program storage, no answer given in advance, an empty trace (assumption log 6). -/
def State.reset : State where
  x := Vector.replicate 16 0
  acc := 0
  cy := false
  pc := 0
  stack := Vector.replicate 3 0
  sp := 0
  phase := .fetch
  latch := none
  icount := 0
  ccount := 0
  prog := []
  dataIn := []
  statusIn := []
  pinIn := []
  trace := []

end Sys2Proof.Machine
end

