-- ==== Sys2Proof/Machine/Ops.lean ====
section
/-! DEFINITION. The named operations over the state: the primitives of the spec's pseudocode (spec/00_scope.md R9). Each
register, the program storage and each port is read and written only through these. -/

namespace Sys2Proof.Machine

/-! ## Program storage as a list of cells -/

/-- The byte a cell list gives an address, none where the address is not listed. -/
def Memory.lookup : List Host.Cell → Nat → Option Byte
  | [], _ => none
  | (b, w) :: m, a => if a = b then some w else Memory.lookup m a

/-- Place a byte, keeping the addresses strictly rising. -/
def Memory.store : List Host.Cell → Nat → Byte → List Host.Cell
  | [], a, v => [(a, v)]
  | (b, w) :: m, a, v =>
    if a < b then (a, v) :: (b, w) :: m
    else if a = b then (a, v) :: m
    else (b, w) :: Memory.store m a v

/-- The addresses are strictly rising from `lo` and lie in the program space. -/
def Memory.wfFrom : Nat → List Host.Cell → Bool
  | _, [] => true
  | lo, (a, _) :: m => decide (lo ≤ a) && decide (a < Config.progSize) && Memory.wfFrom (a + 1) m

/-- The canonical form of program storage (assumption log 2). -/
def Memory.wf (m : List Host.Cell) : Bool := Memory.wfFrom 0 m

/-! ## Registers -/

/-- `x[r]` (R14). -/
def State.readReg (s : State) (r : Nibble) : Nibble := s.x[r.toNat]'(by have := r.isLt; omega)

/-- `x[r] <- v` (R14). -/
def State.writeReg (s : State) (r v : Nibble) : State :=
  { s with x := s.x.set r.toNat v (by have := r.isLt; omega) }

/-- `ACC <- v` (R16). -/
def State.setAcc (s : State) (v : Nibble) : State := { s with acc := v }

/-- `CY <- b` (R17). -/
def State.setCy (s : State) (b : Bool) : State := { s with cy := b }

/-- `ACC` and `CY` from one computation of Flags.lean. -/
def State.setAccCy (s : State) (r : Nibble × Bool) : State := (s.setAcc r.1).setCy r.2

/-- `pc <- t` (R18). -/
def State.setPc (s : State) (t : Addr) : State := { s with pc := t }

/-- `PairRead(p)`: the odd register in bits 7:4, the even register in bits 3:0 (R15). -/
def State.pairRead (s : State) (p : PairIdx) : Byte := s.readReg (oddReg p) ++ s.readReg (evenReg p)

/-- `PairWrite(p, v)`: `x[2p] <- v[3:0]; x[2p+1] <- v[7:4]` (R15). -/
def State.pairWrite (s : State) (p : PairIdx) (v : Byte) : State :=
  (s.writeReg (evenReg p) (pairLow v)).writeReg (oddReg p) (pairHigh v)

/-! ## The call stack -/

/-- `stack[k]` (R19). -/
def State.slot (s : State) (k : Fin 3) : Addr := s.stack[k.val]

/-- `stack[sp] <- t; sp <- (sp + 1) mod 3`: the cursor wraps, nothing is checked (R87, R137; decision D4, assumption
log 11). -/
def State.push (s : State) (t : Addr) : State :=
  { s with stack := s.stack.set s.sp.val t, sp := s.sp + 1 }

/-- `sp <- (sp + 2) mod 3`, then `stack[sp]`, which keeps its value (R89, R137). -/
def State.pop (s : State) : Addr × State :=
  let s1 := { s with sp := s.sp + 2 }
  (s1.slot s1.sp, s1)

/-! ## Ports -/

/-- A transaction enters the port trace (R43). -/
def State.record (s : State) (c : PortCall) : State := { s with trace := s.trace ++ [c] }

/-- The byte program storage holds at an address (R32, R33). Total; reading has no side effect. -/
def State.progByte (s : State) (a : Addr) : Byte := (Memory.lookup s.prog a.toNat).getD (Config.progMem a)

/-- `MemRead(a, 1)` (R33). -/
def State.memRead (s : State) (a : Addr) : Byte × State :=
  let b := s.progByte a
  (b, s.record (.memRead a b))

/-- `FetchByte()`: the byte at `pc`, then `pc <- (pc + 1) mod 4096` (R73; decision D1, assumption log 9). -/
def State.fetchByte (s : State) : Byte × State :=
  let (b, s1) := s.memRead s.pc
  (b, s1.setPc (s1.pc + 1))

/-- `DataSetAddress(v)` (R34). -/
def State.dataSetAddress (s : State) (v : Byte) : State := s.record (.dataSetAddress v)

/-- `BankSelect(b)` (R36). -/
def State.bankSelect (s : State) (b : BankIdx) : State := s.record (.bankSelect b)

/-- `DataWrite(v)` at the currently selected address (R35). -/
def State.dataWrite (s : State) (v : Nibble) : State := s.record (.dataWrite v)

/-- The answer the next `DataRead` gets: any value of 4 bits (R43, U6; assumption log 3). -/
def State.dataAnswer (s : State) : Nibble := s.dataIn.headD (Config.dataAnswer s.trace)

/-- `DataRead()` at the currently selected address (R35). -/
def State.dataRead (s : State) : Nibble × State :=
  let m := s.dataAnswer
  (m, { s with dataIn := s.dataIn.tail }.record (.dataRead m))

/-- `IoWriteOutput(port, v)` (R37). -/
def State.ioWriteOutput (s : State) (port v : Nibble) : State := s.record (.ioWriteOutput port v)

/-- `StatusWrite(n, v)` (R39). -/
def State.statusWrite (s : State) (n : ChannelIdx) (v : Nibble) : State := s.record (.statusWrite n v)

/-- The answer the next `StatusRead` of a channel gets: any value of 4 bits (R43, U6; assumption log 4). -/
def State.statusAnswer (s : State) (n : ChannelIdx) : Nibble := s.statusIn.headD (Config.statusAnswer n s.trace)

/-- `StatusRead(n)` (R39). -/
def State.statusRead (s : State) (n : ChannelIdx) : Nibble × State :=
  let m := s.statusAnswer n
  (m, { s with statusIn := s.statusIn.tail }.record (.statusRead n m))

/-- The answer the next `TestPin` gets: either boolean (R40, U7; assumption log 5). -/
def State.pinAnswer (s : State) : Bool := s.pinIn.headD (Config.pinAnswer s.trace)

/-- `TestPin()` (R40). -/
def State.testPin (s : State) : Bool × State :=
  let b := s.pinAnswer
  (b, { s with pinIn := s.pinIn.tail }.record (.testPin b))

/-- `raise DecodeFailure()`: one record on the diagnostic channel, nothing else. It is the one report of the machine and
takes the place of an exception entry, which the machine does not have: no state is saved, no mode changes, control goes
nowhere (R9, R135, R136, R139, R142; assumption log 8, 25). -/
def State.raiseDecodeFailure (s : State) : State := s.record (.diag .unknownOpcode)

/-! ## The host's access to program storage -/

/-- The host places a byte in program storage (R33, R52; assumption log 23). -/
def State.load (s : State) (a : Addr) (b : Byte) : State := { s with prog := Memory.store s.prog a.toNat b }

/-- The host places bytes at consecutive addresses, wrapping at 4096 (R47). -/
def State.loadBytes (s : State) (a : Addr) : List Byte → State
  | [] => s
  | b :: bs => (s.load a b).loadBytes (a + 1) bs

end Sys2Proof.Machine
end

