-- ==== Sys2Proof/Machine/Accumulator.lean ====
section
/-! DEFINITION. Accumulator and carry instructions: CLB, CLC, IAC, CMC, CMA, RAL, RAR, TCC, DAC, TCS, STC, DAA, KBP
(spec/44_accumulator.md R120 to R133). They touch ACC and CY only and call no port. -/

namespace Sys2Proof.Machine

/-- `CLB` (R120). -/
def execClb (s : State) : Result := .next ((s.setAcc 0).setCy false)

/-- `CLC` (R121). -/
def execClc (s : State) : Result := .next (s.setCy false)

/-- `IAC` (R122). -/
def execIac (s : State) : Result := .next (s.setAccCy (incrementAcc s.acc))

/-- `CMC` (R123). -/
def execCmc (s : State) : Result := .next (s.setCy (!s.cy))

/-- `CMA` (R124). -/
def execCma (s : State) : Result := .next (s.setAcc (complementAcc s.acc))

/-- `RAL` (R125). -/
def execRal (s : State) : Result := .next (s.setAccCy (rotateLeft s.acc s.cy))

/-- `RAR` (R126). -/
def execRar (s : State) : Result := .next (s.setAccCy (rotateRight s.acc s.cy))

/-- `TCC` (R127). -/
def execTcc (s : State) : Result := .next ((s.setAcc (carryDigit s.cy)).setCy false)

/-- `DAC` (R128). -/
def execDac (s : State) : Result := .next (s.setAccCy (decrementAcc s.acc))

/-- `TCS` (R129). -/
def execTcs (s : State) : Result := .next ((s.setAcc (subtractDigit s.cy)).setCy false)

/-- `STC` (R130). -/
def execStc (s : State) : Result := .next (s.setCy true)

/-- `DAA` (R131). -/
def execDaa (s : State) : Result := .next (s.setAccCy (decimalAdjust s.acc s.cy))

/-- `KBP` (R132). -/
def execKbp (s : State) : Result := .next (s.setAcc (keyboardCode s.acc))

end Sys2Proof.Machine
end

