-- ==== Sys2Proof/Machine/Control.lean ====
section
/-! DEFINITION. NOP and control transfer: NOP, JCN, JIN, JUN, JMS, ISZ, BBL (spec/41_control.md R83 to R90). Each meaning
runs in the EXECUTE step, when `pc` already holds the address of the next instruction in sequence (spec/40_cycle.md R78).
A target given in 8 bits replaces the whole `pc` (decision D2, assumption log 10). -/

namespace Sys2Proof.Machine

/-- `NOP`: no effect (R83). -/
def execNop (s : State) : Result := .next s

/-- `TestPin` is called once if bit 1 of the condition is set, and not otherwise (R40, R84). -/
def State.samplePin (s : State) (asked : Bool) : Bool × State :=
  if asked then s.testPin else (false, s)

/-- `JCN c, a` (R84). -/
def execJcn (c : Nibble) (a : Byte) (s : State) : Result :=
  let (pin, s1) := s.samplePin (asksPin c)
  .next (s1.setPc (if jcnCondition c s1.acc s1.cy pin then zext12 a else s1.pc))

/-- `JIN p`: `pc <- zext_12(PairRead(p))` (R85). -/
def execJin (p : PairIdx) (s : State) : Result := .next (s.setPc (zext12 (s.pairRead p)))

/-- `JUN t`: `pc <- t` (R86). -/
def execJun (t : Addr) (s : State) : Result := .next (s.setPc t)

/-- `JMS t`: the current `pc` goes to the slot at the cursor, the cursor moves on, `pc <- t` (R87). -/
def execJms (t : Addr) (s : State) : Result := .next ((s.push s.pc).setPc t)

/-- `ISZ r, a`: increment as INC; a zero result jumps (R88). -/
def execIsz (r : Nibble) (a : Byte) (s : State) : Result :=
  let v := incNibble (s.readReg r)
  let s1 := s.writeReg r v
  .next (s1.setPc (if v = 0 then zext12 a else s1.pc))

/-- `BBL d`: the cursor moves back, `pc` comes from the slot there, `ACC <- d` (R89). -/
def execBbl (d : Nibble) (s : State) : Result :=
  let (t, s1) := s.pop
  .next ((s1.setPc t).setAcc d)

end Sys2Proof.Machine
end

