-- ==== Sys2Proof/Machine/Diagnostics.lean ====
section
/-! DEFINITION. UNKNOWN, the instruction every byte outside the opcode map decodes to (spec/60_exceptions.md R135). -/

namespace Sys2Proof.Machine

/-- `UNKNOWN`: `raise DecodeFailure()`, one diagnostic record per execution; nothing else (R135). -/
def execUnknown (s : State) : Result := .next s.raiseDecodeFailure

end Sys2Proof.Machine
end

