-- ==== Sys2Proof/Machine/MemoryIo.lean ====
section
/-! DEFINITION. Data-memory and IO instructions: SRC, DCL, WRM, RDM, ADM, SBM, WMP, WRR, RDR, WR0 to WR3, RD0 to RD3
(spec/43_memory_io.md R100 to R117). Each makes at most one port call (R42). -/

namespace Sys2Proof.Machine

/-- `SRC p`: the pair's 8-bit value, unchanged, to the address-select port (R100). -/
def execSrc (p : PairIdx) (s : State) : Result := .next (s.dataSetAddress (s.pairRead p))

/-- `DCL`: `BankSelect(ACC[1:0])` (R116). -/
def execDcl (s : State) : Result := .next (s.bankSelect (bankOf s.acc))

/-- `WRM`: `DataWrite(ACC)` (R101). -/
def execWrm (s : State) : Result := .next (s.dataWrite s.acc)

/-- `RDM`: `ACC <- DataRead()` (R109). -/
def execRdm (s : State) : Result :=
  let (m, s1) := s.dataRead
  .next (s1.setAcc m)

/-- `ADM`: add the nibble read, as ADD (R111). -/
def execAdm (s : State) : Result :=
  let (m, s1) := s.dataRead
  .next (s1.setAccCy (addNibbles s1.acc m))

/-- `SBM`: subtract the nibble read, as SUB (R108). -/
def execSbm (s : State) : Result :=
  let (m, s1) := s.dataRead
  .next (s1.setAccCy (subNibbles s1.acc m s1.cy))

/-- `WMP`: `IoWriteOutput(0, ACC)` (R102). -/
def execWmp (s : State) : Result := .next (s.ioWriteOutput 0 s.acc)

/-- `WRR`: no effect, no port call (R103). -/
def execWrr (s : State) : Result := .next s

/-- `RDR`: no effect, no port call (R110; `IoReadInput` is not called, R38, assumption log 28). -/
def execRdr (s : State) : Result := .next s

/-- `WRn`: `StatusWrite(n, ACC)` (R104 to R107). -/
def writeStatus (n : ChannelIdx) (s : State) : Result := .next (s.statusWrite n s.acc)

/-- `RDn`: `ACC <- StatusRead(n)` (R112 to R115). -/
def readStatus (n : ChannelIdx) (s : State) : Result :=
  let (m, s1) := s.statusRead n
  .next (s1.setAcc m)

/-- `WR0` (R104). -/
def execWr0 (s : State) : Result := writeStatus 0 s

/-- `WR1` (R105). -/
def execWr1 (s : State) : Result := writeStatus 1 s

/-- `WR2` (R106). -/
def execWr2 (s : State) : Result := writeStatus 2 s

/-- `WR3` (R107). -/
def execWr3 (s : State) : Result := writeStatus 3 s

/-- `RD0` (R112). -/
def execRd0 (s : State) : Result := readStatus 0 s

/-- `RD1` (R113). -/
def execRd1 (s : State) : Result := readStatus 1 s

/-- `RD2` (R114). -/
def execRd2 (s : State) : Result := readStatus 2 s

/-- `RD3` (R115). -/
def execRd3 (s : State) : Result := readStatus 3 s

end Sys2Proof.Machine
end

