-- ==== Sys2Proof/Machine/Register.lean ====
section
/-! DEFINITION. Register and immediate instructions: FIM, FIN, INC, ADD, SUB, LD, XCH, LDM (spec/42_register.md R91 to
R99). -/

namespace Sys2Proof.Machine

/-- `FIM p, d`: `PairWrite(p, d)` (R91). -/
def execFim (p : PairIdx) (d : Byte) (s : State) : Result := .next (s.pairWrite p d)

/-- `FIN p`: the program byte at the address in pair 0 goes to pair `p`; pair 0 is read before the target is written
(R92; the address is zero-extended, decision D3, assumption log 10). -/
def execFin (p : PairIdx) (s : State) : Result :=
  let (b, s1) := s.memRead (zext12 (s.pairRead 0))
  .next (s1.pairWrite p b)

/-- `INC r` (R93). -/
def execInc (r : Nibble) (s : State) : Result := .next (s.writeReg r (incNibble (s.readReg r)))

/-- `ADD r` (R94). -/
def execAdd (r : Nibble) (s : State) : Result := .next (s.setAccCy (addNibbles s.acc (s.readReg r)))

/-- `SUB r` (R95). -/
def execSub (r : Nibble) (s : State) : Result := .next (s.setAccCy (subNibbles s.acc (s.readReg r) s.cy))

/-- `LD r` (R96). -/
def execLd (r : Nibble) (s : State) : Result := .next (s.setAcc (s.readReg r))

/-- `XCH r`: both old values are read before either is written (R97). -/
def execXch (r : Nibble) (s : State) : Result := .next ((s.setAcc (s.readReg r)).writeReg r s.acc)

/-- `LDM d` (R98). -/
def execLdm (d : Nibble) (s : State) : Result := .next (s.setAcc d)

end Sys2Proof.Machine
end

