-- ==== Sys2Proof/Machine/Cycle.lean ====
section
/-! DEFINITION. The two phases of the step machine (spec/40_cycle.md R71 to R79) and what the host stores where the next
fetch reads. -/

namespace Sys2Proof.Machine

/-- `ccount <- ccount + 1`, at the start of every step (R71, R79; decision D6, assumption log 12). -/
def State.countCycle (s : State) : State := { s with ccount := s.ccount + 1 }

/-- The decoded instruction goes to the latch and the phase to EXECUTE (R72). -/
def State.latchInstr (s : State) (i : Instr) : State := { s with latch := some i, phase := .execute }

/-- The FETCH phase: one byte, the second one where the first asks for it, decode, latch (R72 to R74). -/
def fetchPhase (s : State) : State :=
  let (op, s1) := s.fetchByte
  if isTwoByte op then
    let (b2, s2) := s1.fetchByte
    s2.latchInstr (decode op b2)
  else s1.latchInstr (decode op 0x00#8)

/-- The end of the EXECUTE phase: latch emptied, phase FETCH, `icount <- icount + 1` (R75; decision D24, assumption
log 13). -/
def State.retire (s : State) : State := { s with latch := none, phase := .fetch, icount := s.icount + 1 }

/-- The EXECUTE phase: the pending instruction runs, then the machine is back in FETCH (R75). An empty latch in this phase
is the state R22 rules out (assumption log 19). -/
def executePhase (s : State) : Result :=
  match s.latch with
  | none => .fault .emptyLatch
  | some i =>
    match exec i s with
    | .next t => .next t.retire
    | .fault r => .fault r
    | .refused r => .refused r

/-- The state with an instruction's bytes placed where the next FETCH step reads them: at `pc`, with the machine about to
fetch. -/
def State.withProgramBytes (s : State) (bs : List Byte) : State :=
  { s.loadBytes s.pc bs with phase := .fetch, latch := none }

end Sys2Proof.Machine
end

