-- ==== Sys2Proof/Machine/Step.lean ====
section
/-! DEFINITION. The step primitive (spec/40_cycle.md R71): one call is one half-cycle. -/

namespace Sys2Proof.Machine

/-- `step()` (R71). -/
def step (s : State) : Host.Outcome State Fault Refusal :=
  let s1 := s.countCycle
  match s1.phase with
  | .fetch => .next (fetchPhase s1)
  | .execute => executePhase s1

/-- The state in which the instruction with table bits `w` runs in the very next step: its bytes are placed where the
FETCH step reads them, and that FETCH step has been taken (an instruction takes two steps, R71, and it takes effect in the
second, R162), so that the next step is its EXECUTE step (assumption log 22). -/
def State.withFetchWord (s : State) (nbits w : Nat) : State :=
  fetchPhase (s.withProgramBytes (tableBytes nbits w)).countCycle

end Sys2Proof.Machine
end

