-- ==== Sys2Proof/Machine/HostActions.lean ====
section
/-! DEFINITION. What the host can do to the machine (spec/00_scope.md R11, spec/20_memory.md R44, spec/40_cycle.md R77,
spec/70_reset_and_hazards.md R151 to R154, R165). -/

namespace Sys2Proof.Machine

/-- A host action, between steps (R141, R153). -/
inductive HostAction where
  /-- call the step primitive (R71) -/
  | step
  /-- reset the core (R151) -/
  | reset
  /-- inject one instruction (R77) -/
  | execute (i : Instr)
  /-- place a byte in program storage: an action on the collaborator, not on the core (R33, R52; assumption log 23) -/
  | load (a : Addr) (b : Byte)
  deriving DecidableEq, Repr

/-- `reset()` (R151): every field of CPUState gets its power-on value; program storage, the collaborators' answers and the
port trace are not the core's and stay (R154; decisions D7, D20, assumption log 31). -/
def State.hostReset (s : State) : State :=
  { State.reset with prog := s.prog, dataIn := s.dataIn, statusIn := s.statusIn, pinIn := s.pinIn, trace := s.trace }

/-- One host action. The direct `execute` runs `Execute(i)` on the current state and does nothing else (R77; decision D19,
assumption log 18). -/
def act (h : HostAction) (s : State) : Result :=
  match h with
  | .step => step s
  | .reset => .next s.hostReset
  | .execute i => exec i s
  | .load a b => .next (s.load a b)

/-- A run: a finite sequence of host actions (R165). -/
def runActions : List HostAction → State → Result
  | [], s => .next s
  | h :: hs, s =>
    match act h s with
    | .next t => runActions hs t
    | .fault r => .fault r
    | .refused r => .refused r

end Sys2Proof.Machine
end

