-- ==== Sys2Proof/Machine/Views.lean ====
section
/-! DEFINITION. What the port trace tells about the state outside the core (spec/10_state.md R26,
spec/70_reset_and_hazards.md R157, R158; assumption log 32). -/

namespace Sys2Proof.Machine

/-- The value a call passes to the address-select port. -/
def addressOf? : PortCall → Option Byte
  | .dataSetAddress v => some v
  | _ => none

/-- The bank a call selects. -/
def bankOf? : PortCall → Option BankIdx
  | .bankSelect b => some b
  | _ => none

/-- The diagnostic record a call is. -/
def diagnosticOf? : PortCall → Option Diagnostic
  | .diag d => some d
  | _ => none

/-- The selected data address: "the 8-bit value last passed to `DataSetAddress`" (R12); none while no SRC has run, when
the collaborator's own initial selection stands (R157, decision D20). -/
def State.selectedAddress (s : State) : Option Byte := (s.trace.filterMap addressOf?).getLast?

/-- The selected RAM bank: the one of the last DCL (R158); none while no DCL has run. -/
def State.selectedBank (s : State) : Option BankIdx := (s.trace.filterMap bankOf?).getLast?

/-- The diagnostic channel, oldest record first (R41, R136). -/
def State.diagnostics (s : State) : List Diagnostic := s.trace.filterMap diagnosticOf?

end Sys2Proof.Machine
end

