-- ==== Sys2Proof/Safety.lean ====
section
/-! DEFINITION. The terms in which claims about the machine are stated: the invariant of the state, what an instruction
leaves unchanged, the port calls the spec lists for each instruction, and a run in which nothing is reported. -/

namespace Sys2Proof.Machine

/-! ## The invariant -/

/-- The latch is empty exactly when the phase is FETCH (spec/10_state.md R22). -/
def State.LatchOk (s : State) : Prop := s.latch = none ↔ s.phase = .fetch

/-- Program storage is in its canonical form (assumption log 2). -/
def State.ProgOk (s : State) : Prop := Memory.wf s.prog = true

/-- The invariant of the state. The ranges of R24 hold by the types of the fields; what remains is R22 and the canonical
form of program storage. -/
structure State.Inv (s : State) : Prop where
  latch : s.LatchOk
  prog : s.ProgOk

/-- Two steps an instruction: `ccount` is twice `icount`, and one more between the FETCH and the EXECUTE step
(R79; decision D6, assumption log 12). -/
def State.CountersOk (s : State) : Prop :=
  s.ccount = 2 * s.icount + (if s.phase = .execute then 1 else 0)

/-- Two states agree in everything but the two diagnostic counters (R23). -/
def State.SameButCounters (s t : State) : Prop :=
  { s with icount := 0, ccount := 0 } = { t with icount := 0, ccount := 0 }

/-- A run in which nothing is reported: the one notion of "gone wrong" the machine has is a diagnostic record in the trace
(spec/93_implementation_defined.md section 1). -/
def State.Quiet (s : State) : Prop := s.diagnostics = []

/-! ## Frames -/

/-- A named piece of the state. -/
inductive Component where
  | reg (r : Nibble)
  | acc
  | cy
  | pc
  | slot (k : Fin 3)
  | sp
  | phase
  | latch
  | icount
  | ccount
  | progByte (a : Addr)
  | dataIn
  | statusIn
  | pinIn
  | trace
  deriving DecidableEq, Repr

/-- The component has in `t` the value it has in `s`. A byte of program storage is compared by reading it. -/
def Component.Same (s t : State) : Component → Prop
  | .reg r => t.readReg r = s.readReg r
  | .acc => t.acc = s.acc
  | .cy => t.cy = s.cy
  | .pc => t.pc = s.pc
  | .slot k => t.slot k = s.slot k
  | .sp => t.sp = s.sp
  | .phase => t.phase = s.phase
  | .latch => t.latch = s.latch
  | .icount => t.icount = s.icount
  | .ccount => t.ccount = s.ccount
  | .progByte a => t.progByte a = s.progByte a
  | .dataIn => t.dataIn = s.dataIn
  | .statusIn => t.statusIn = s.statusIn
  | .pinIn => t.pinIn = s.pinIn
  | .trace => t.trace = s.trace

/-- Everything outside `written` is unchanged from `s` to `t`. -/
def Frame (written : List Component) (s t : State) : Prop :=
  ∀ c : Component, c ∉ written → c.Same s t

/-- Register `2p`, by its number (R15). -/
def lowReg (p : PairIdx) : Nibble := BitVec.ofNat 4 (2 * p.toNat)

/-- Register `2p + 1`, by its number (R15). -/
def highReg (p : PairIdx) : Nibble := BitVec.ofNat 4 (2 * p.toNat + 1)

/-- The value of a pair as a number: `16*x[2p+1] + x[2p]` (R15). -/
def pairValue (s : State) (p : PairIdx) : Nat :=
  16 * (s.readReg (highReg p)).toNat + (s.readReg (lowReg p)).toNat

/-- The two registers of a pair (R15). -/
def pairComponents (p : PairIdx) : List Component := [.reg (lowReg p), .reg (highReg p)]

/-- The components an instruction writes: the "State written" line of its rule, with the port trace (and the answer it
draws) for an instruction that calls a port (R10, R42). -/
def writes : Instr → State → List Component
  | .nop, _ => []
  | .jcn c _, _ => if c.getLsbD 1 then [.pc, .pinIn, .trace] else [.pc]
  | .fim p _, _ => pairComponents p
  | .src _, _ => [.trace]
  | .fin p, _ => .trace :: pairComponents p
  | .jin _, _ => [.pc]
  | .jun _, _ => [.pc]
  | .jms _, s => [.slot s.sp, .sp, .pc]
  | .inc r, _ => [.reg r]
  | .isz r _, _ => [.reg r, .pc]
  | .add _, _ => [.acc, .cy]
  | .sub _, _ => [.acc, .cy]
  | .ld _, _ => [.acc]
  | .xch r, _ => [.acc, .reg r]
  | .bbl _, _ => [.sp, .pc, .acc]
  | .ldm _, _ => [.acc]
  | .wrm, _ => [.trace]
  | .wmp, _ => [.trace]
  | .wrr, _ => []
  | .wr0, _ => [.trace]
  | .wr1, _ => [.trace]
  | .wr2, _ => [.trace]
  | .wr3, _ => [.trace]
  | .sbm, _ => [.acc, .cy, .dataIn, .trace]
  | .rdm, _ => [.acc, .dataIn, .trace]
  | .rdr, _ => []
  | .adm, _ => [.acc, .cy, .dataIn, .trace]
  | .rd0, _ => [.acc, .statusIn, .trace]
  | .rd1, _ => [.acc, .statusIn, .trace]
  | .rd2, _ => [.acc, .statusIn, .trace]
  | .rd3, _ => [.acc, .statusIn, .trace]
  | .clb, _ => [.acc, .cy]
  | .clc, _ => [.cy]
  | .iac, _ => [.acc, .cy]
  | .cmc, _ => [.cy]
  | .cma, _ => [.acc]
  | .ral, _ => [.acc, .cy]
  | .rar, _ => [.acc, .cy]
  | .tcc, _ => [.acc, .cy]
  | .dac, _ => [.acc, .cy]
  | .tcs, _ => [.acc, .cy]
  | .stc, _ => [.cy]
  | .daa, s => if 9 < s.acc.toNat ∨ s.cy = true then [.acc, .cy] else []
  | .kbp, _ => [.acc]
  | .dcl, _ => [.trace]
  | .unknown, _ => [.trace]

/-- The port calls an instruction makes in its EXECUTE step, with the answers it gets (R42). -/
def portCalls : Instr → State → List PortCall
  | .jcn c _, s => if c.getLsbD 1 then [.testPin s.pinAnswer] else []
  | .src p, s => [.dataSetAddress (s.pairRead p)]
  | .fin _, s => [.memRead (zext12 (s.pairRead 0)) (s.progByte (zext12 (s.pairRead 0)))]
  | .wrm, s => [.dataWrite s.acc]
  | .wmp, s => [.ioWriteOutput 0 s.acc]
  | .wr0, s => [.statusWrite 0 s.acc]
  | .wr1, s => [.statusWrite 1 s.acc]
  | .wr2, s => [.statusWrite 2 s.acc]
  | .wr3, s => [.statusWrite 3 s.acc]
  | .sbm, s => [.dataRead s.dataAnswer]
  | .rdm, s => [.dataRead s.dataAnswer]
  | .adm, s => [.dataRead s.dataAnswer]
  | .rd0, s => [.statusRead 0 (s.statusAnswer 0)]
  | .rd1, s => [.statusRead 1 (s.statusAnswer 1)]
  | .rd2, s => [.statusRead 2 (s.statusAnswer 2)]
  | .rd3, s => [.statusRead 3 (s.statusAnswer 3)]
  | .dcl, s => [.bankSelect (s.acc.extractLsb' 0 2)]
  | .unknown, _ => [.diag .unknownOpcode]
  | _, _ => []

/-- The instruction a host action executes, if it executes one: an injected one, or the pending one in an EXECUTE step
(R75, R77). -/
def executed : HostAction → State → Option Instr
  | .execute i, _ => some i
  | .step, s => if s.phase = .execute then s.latch else none
  | .reset, _ => none
  | .load _ _, _ => none

/-- `n` steps from a state. -/
def runSteps (n : Nat) (s : State) : Result := Host.Core.run Sys2Proof.core n s

/-! ## Encodings -/

/-- The bytes `bs`, whatever follows them, decode to `i` and are used up. -/
def DecodesTo (bs : List Byte) (i : Instr) : Prop :=
  ∀ rest : List Byte, decodeBytes (bs ++ rest) = .ok (i, rest)

end Sys2Proof.Machine
end

