-- ==== Sys2Proof/Certificates/Slice0/Obligations.lean ====
section
/-! DEFINITION. The statements for the provers. Each names in its docstring the rule of spec/ it formalises, or says that it
rests on a choice and names the assumption log entry. A statement about an instruction says that `exec` answers a next
state, what that state holds, and (`Frame`) that everything else is unchanged: registers, accumulator, carry, pc, stack,
phase, latch, counters, every byte of program storage, the coming answers and the port trace. -/

open Sys2Proof Sys2Proof.Machine

/-! ## Encoding -/

/-- Words written out bit by bit from the formats of R54 and the rows of R56 to R58, and the source's own bytes
(30_encoding.md section 7), decode to the instruction they stand for. Rows 0xE and 0xF rest on decision D15 (log 16). -/
def Obligations.WrittenOutWordsDecode : Prop :=
  DecodesTo [0b11010101#8] (.ldm 5) ∧ DecodesTo [0b10110001#8] (.xch 1) ∧ DecodesTo [0b10000001#8] (.add 1) ∧
  DecodesTo [0b00010100#8, 0b01000000#8] (.jcn 4 0x40) ∧ DecodesTo [0b01000010#8, 0b00110100#8] (.jun 0x234) ∧
  DecodesTo [0b00100010#8, 0b00100101#8] (.fim 1 0x25) ∧ DecodesTo [0b00100011#8] (.src 1) ∧
  DecodesTo [0b00110100#8] (.fin 2) ∧ DecodesTo [0b00110101#8] (.jin 2) ∧
  DecodesTo [0b01110000#8, 0b00000111#8] (.isz 0 7) ∧ DecodesTo [0b11100000#8] .wrm ∧
  DecodesTo [0b11110101#8] .ral ∧ DecodesTo [0b11100011#8] .unknown

/-- Decode and encode agree (R54, R56, R59): for every instruction, with every operand at every value its field admits,
decoding its bytes gives it back and leaves what follows. That the bytes of rows 0xE and 0xF are in list order is decision
D15 (log 16), and that UNKNOWN is encoded as 0xE3 is the model's choice (log 20). -/
def Obligations.DecodeOfEncodeIsTheInstruction : Prop :=
  ∀ (i : Instr) (rest : List Byte), i.wellFormed = true ∧ decodeBytes (encode i ++ rest) = .ok (i, rest)

/-- The other direction: no bit of an instruction is dropped by the decoder ("No instruction has a don't-care bit", R62).
Whatever bytes decode to an instruction other than UNKNOWN, which does not carry its byte (R65), are its encoding. -/
def Obligations.DecodedBytesAreTheEncoding : Prop :=
  ∀ (bs rest : List Byte) (i : Instr), decodeBytes bs = .ok (i, rest) → i ≠ .unknown → bs = encode i ++ rest

/-- The bytes outside the opcode map are these 18, whatever byte follows (R61; decisions D15 and D17, logs 16 and 17). -/
def Obligations.UnmappedBytesDecodeToUnknown : Prop :=
  ∀ op b2 : Byte, decode op b2 = .unknown ↔
    (1 ≤ op.toNat ∧ op.toNat ≤ 15) ∨ op.toNat = 0xE3 ∨ op.toNat = 0xFE ∨ op.toNat = 0xFF

/-- Two-byte instructions are exactly JCN, FIM, JUN, JMS and ISZ (R53, R60): the first byte alone decides the mnemonic and
the length, whatever the second byte, and the list decoder uses up that many bytes; that an UNKNOWN is one byte long is
decision D18 (log 17). -/
def Obligations.TwoByteInstructionsAreTheFive : Prop :=
  (∀ op b2 b2' : Byte, (decode op b2).mnemonic = (decode op b2').mnemonic ∧
    instrLength op = if (decode op b2).mnemonic ∈ [.jcn, .fim, .jun, .jms, .isz] then 2 else 1) ∧
  ∀ (bs rest : List Byte) (i : Instr), decodeBytes bs = .ok (i, rest) →
    bs.length = rest.length + (if i.mnemonic ∈ [.jcn, .fim, .jun, .jms, .isz] then 2 else 1)

/-- A line names an instruction exactly when it is that instruction's line: a line with a missing or extra operand or an
operand out of its range names none (R63, R65; decisions D11 and D23, logs 24 and 33). -/
def Obligations.LineNamesTheInstructionOfItsOperands : Prop :=
  ∀ (r : RawInstr) (i : Instr), r.toInstr = some i ↔ r = i.raw

/-! ## The step machine -/

/-- The FETCH step (R72 to R74, R78): the byte at `pc` and, where it asks for one, the byte after it are read and decoded
into the latch, `pc` moves past them modulo 4096, the phase becomes EXECUTE, and nothing else changes. That the first read
advances `pc` in this step is decision D1 (log 9), the cycle count decision D6 (log 12). -/
def Obligations.FetchStepLatchesTheInstructionAtPc : Prop :=
  ∀ s : State, s.phase = .fetch →
    let op := s.progByte s.pc
    let b2 := s.progByte (s.pc + 1)
    ∃ t, step s = .next t ∧ t.latch = some (decode op b2) ∧ t.phase = .execute ∧
      t.pc.toNat = (s.pc.toNat + instrLength op) % 4096 ∧ t.ccount = s.ccount + 1 ∧
      t.trace = s.trace ++ .memRead s.pc op :: (if isTwoByte op then [.memRead (s.pc + 1) b2] else []) ∧
      Frame [.pc, .latch, .phase, .ccount, .trace] s t

/-- The EXECUTE step (R75): the execution engine runs on the pending instruction, the phase becomes FETCH, the latch is
emptied (decision D24, log 13) and the instruction is counted; the cycle count is decision D6 (log 12). -/
def Obligations.ExecuteStepRunsThePendingInstruction : Prop :=
  ∀ (s : State) (i : Instr), s.phase = .execute → s.latch = some i →
    ∃ t, exec i { s with ccount := s.ccount + 1 } = .next t ∧
      step s = .next { t with latch := none, phase := .fetch, icount := t.icount + 1 }

/-- A step-pair runs the instruction at `pc` (R71, R78): when the bytes there decode to `i`, the first step latches `i` and
moves `pc` past its bytes, and the second is `exec i` with the step machine's own bookkeeping around it (decisions D1, D6,
D24; logs 9, 12, 13). -/
def Obligations.StepPairRunsTheDecodedInstruction : Prop :=
  ∀ (s : State) (i : Instr) (rest : List Byte), s.phase = .fetch →
    decodeBytes [s.progByte s.pc, s.progByte (s.pc + 1)] = .ok (i, rest) →
    ∃ u t, step s = .next u ∧ u.latch = some i ∧ u.phase = .execute ∧
      u.pc.toNat = (s.pc.toNat + (2 - rest.length)) % 4096 ∧
      Frame [.pc, .latch, .phase, .ccount, .trace] s u ∧
      exec i { u with ccount := u.ccount + 1 } = .next t ∧
      step u = .next { t with latch := none, phase := .fetch, icount := t.icount + 1 }

/-- The model's way to place an instruction (log 22): from `withFetchWord`, where the instruction's bytes stand at the old
`pc` and its FETCH step is done, the very next step runs it. -/
def Obligations.PlacedWordRunsInTheNextStep : Prop :=
  ∀ (s : State) (nbits w : Nat) (i : Instr), decodeTableWord nbits w = some i →
    let u := s.withFetchWord nbits w
    [u.progByte s.pc, u.progByte (s.pc + 1)] = tableBytes nbits w ∧
    Frame [.pc, .latch, .phase, .ccount, .trace, .progByte s.pc, .progByte (s.pc + 1)] s u ∧
    ∃ t, exec i { u with ccount := u.ccount + 1 } = .next t ∧
      step u = .next { t with latch := none, phase := .fetch, icount := t.icount + 1 }

/-- The phase (R21): it alternates on every step, no instruction reads or writes it, and it is FETCH after reset. -/
def Obligations.PhaseAlternatesAndNoInstructionTouchesIt : Prop :=
  State.reset.phase = .fetch ∧
  (∀ s : State, s.LatchOk → ∃ t, step s = .next t ∧ t.phase ≠ s.phase) ∧
  (∀ (i : Instr) (s : State) (ph : Phase), ∃ t, exec i s = .next t ∧ t.phase = s.phase ∧
    exec i { s with phase := ph } = .next { t with phase := ph })

/-- Execute cannot fail, and it neither writes nor reads `phase`, `latch`, `icount` and `ccount` (R76, R77): with other
values in those four fields the same instruction does the same and leaves those values. -/
def Obligations.ExecuteNeverFailsNorTouchesControlState : Prop :=
  ∀ (i : Instr) (s : State) (ph : Phase) (l : Option Instr) (ic cc : Nat), ∃ t, exec i s = .next t ∧
    exec i { s with phase := ph, latch := l, icount := ic, ccount := cc } =
      .next { t with phase := ph, latch := l, icount := ic, ccount := cc } ∧
    t.phase = s.phase ∧ t.latch = s.latch ∧ t.icount = s.icount ∧ t.ccount = s.ccount

/-- The state after reset meets the invariant (R22, R27) and the counters agree (R79). That the latch is empty then is
decisions D7 and D24 (log 13), the relation of the counters is decision D6 (log 12), and the canonical form of program
storage is the model's (log 2). -/
def Obligations.ResetStateMeetsTheInvariant : Prop := State.reset.Inv ∧ State.reset.CountersOk

/-- Every step keeps the invariant: the latch is empty exactly in phase FETCH (R22), and program storage keeps its canonical
form (the model's, log 2). -/
def Obligations.StepKeepsTheInvariant : Prop :=
  ∀ s t : State, s.Inv → step s = .next t → t.Inv

/-- Every step keeps the relation of the counters (R79; decision D6, log 12). -/
def Obligations.StepKeepsTheCountersInvariant : Prop :=
  ∀ s t : State, s.CountersOk → step s = .next t → t.CountersOk

/-- There is no terminal state (R71, R80): from every state that meets the invariant any number of steps completes, the
invariant still holds, and every step has been counted as a cycle (decision D6, log 12). -/
def Obligations.StepsNeverStop : Prop :=
  ∀ (n : Nat) (s : State), s.Inv → ∃ t, runSteps n s = .next t ∧ t.Inv ∧ t.ccount = s.ccount + n

/-- Whatever the host does between steps, in any order (steps, resets, injected instructions, bytes placed in program
storage: R77, R151, R52, R165), the machine goes on, keeps the invariant, and only appends to the port trace (R41, R43). -/
def Obligations.HostRunsKeepTheInvariantAndAppendToTheTrace : Prop :=
  ∀ (hs : List HostAction) (s : State), s.Inv → ∃ t, runActions hs s = .next t ∧ t.Inv ∧ s.trace <+: t.trace

/-- After k step-pairs from phase FETCH, `icount` has grown by k and `ccount` by 2k, whatever the instructions are (R79,
R164; decision D6, log 12). -/
def Obligations.StepPairsAreCounted : Prop :=
  ∀ (k : Nat) (s : State), s.phase = .fetch → ∃ t, runSteps (2 * k) s = .next t ∧ t.phase = .fetch ∧
    t.icount = s.icount + k ∧ t.ccount = s.ccount + 2 * k

/-- The counters have "no correctness dependency" (R23): two states that differ only in them run alike for ever. When they
are incremented is decision D6 (log 12). -/
def Obligations.CountersNeverInfluenceTheRun : Prop :=
  ∀ (n : Nat) (s t : State), s.LatchOk → s.SameButCounters t →
    ∃ s' t', runSteps n s = .next s' ∧ runSteps n t = .next t' ∧ s'.SameButCounters t'

/-! ## Whole-machine rules -/

/-- Every instruction completes (R76); state its rule does not list is unchanged (R10; `writes` is the "State written" line
of each rule), and it makes exactly the port calls its rule lists, in their order (R42; `portCalls`). These calls rest on
decisions D9 (the pin is sampled only when condition bit 1 is set, log 5), D3 (FIN's address, log 10) and D5 (the diagnostic
record, log 8); the answers they carry, and the answer fields among what is written, are the model's (logs 3, 4 and 5). -/
def Obligations.InstructionsDoOnlyWhatTheirRulesList : Prop :=
  ∀ (i : Instr) (s : State), ∃ t, exec i s = .next t ∧ Frame (writes i s) s t ∧
    t.trace = s.trace ++ portCalls i s

/-- The lists of writers that the state rules give field by field agree with the machine: index registers (R14),
accumulator (R16), carry (R17), stack slots (R19), cursor (R20), `pc` (R90). An instruction not in a field's list leaves the
field unchanged. -/
def Obligations.OnlyTheListedInstructionsWriteEachField : Prop :=
  ∀ (i : Instr) (s t : State), exec i s = .next t →
    (i.mnemonic ∉ [.inc, .isz, .xch, .fim, .fin] → ∀ r, t.readReg r = s.readReg r) ∧
    (i.mnemonic ∉ [.add, .sub, .ld, .xch, .bbl, .ldm, .sbm, .rdm, .adm, .rd0, .rd1, .rd2, .rd3, .clb, .iac, .cma, .ral,
      .rar, .tcc, .dac, .tcs, .daa, .kbp] → t.acc = s.acc) ∧
    (i.mnemonic ∉ [.add, .adm, .sub, .sbm, .iac, .dac, .ral, .rar, .clb, .clc, .tcc, .tcs, .stc, .cmc, .daa] →
      t.cy = s.cy) ∧
    (i.mnemonic ≠ .jms → ∀ k, t.slot k = s.slot k) ∧
    (i.mnemonic ∉ [.jms, .bbl] → t.sp = s.sp) ∧
    (i.mnemonic ∉ [.jcn, .isz, .jin, .jun, .jms, .bbl] → t.pc = s.pc)

/-- R45: no instruction writes program storage, and 0xE3, the only candidate, decodes to UNKNOWN. -/
def Obligations.NoInstructionWritesProgramStorage : Prop :=
  DecodesTo [0xE3#8] .unknown ∧
  (∀ (i : Instr) (s : State), ∃ t, exec i s = .next t ∧ ∀ a, t.progByte a = s.progByte a) ∧
  (∀ s t : State, step s = .next t → ∀ a, t.progByte a = s.progByte a)

/-- R38: no instruction and no step of the core reads an input port; RDR, the instruction that would, is a no-op. -/
def Obligations.InputPortsAreNeverRead : Prop :=
  (∀ s : State, exec .rdr s = .next s) ∧
  (∀ (i : Instr) (s t : State), exec i s = .next t →
    ∀ port v, t.trace.count (.ioReadInput port v) = s.trace.count (.ioReadInput port v)) ∧
  (∀ s t : State, step s = .next t →
    ∀ port v, t.trace.count (.ioReadInput port v) = s.trace.count (.ioReadInput port v))

/-- R157: only SRC sets the selected address, to the value of its pair; whatever else happens to the pair or to the core,
reset included, the selection stays at the value of the last SRC. -/
def Obligations.OnlySrcMovesTheSelectedAddress : Prop :=
  ∀ (h : HostAction) (s t : State), act h s = .next t →
    t.selectedAddress = match executed h s with
      | some (.src p) => some (BitVec.ofNat 8 (pairValue s p))
      | _ => s.selectedAddress

/-- R158: the bank is the one of the last DCL, taken from `ACC[1:0]` at that time; nothing else changes it. -/
def Obligations.OnlyDclMovesTheSelectedBank : Prop :=
  ∀ (h : HostAction) (s t : State), act h s = .next t →
    t.selectedBank = match executed h s with
      | some .dcl => some (BitVec.ofNat 2 (s.acc.toNat % 4))
      | _ => s.selectedBank

/-- R160: outside page 0 only JUN, JMS and BBL can lead; JCN, ISZ and JIN stay put or land in 0x000 to 0x0FF, and FIN reads
its byte there. That the upper bits become 0 is decisions D2 and D3 (log 10). -/
def Obligations.EightBitTargetsStayInPageZero : Prop :=
  (∀ (i : Instr) (s t : State), exec i s = .next t → i.mnemonic ∉ [.jun, .jms, .bbl] →
    t.pc = s.pc ∨ t.pc.toNat ≤ 0xFF) ∧
  (∀ (p : PairIdx) (s : State), ∃ t a, exec (.fin p) s = .next t ∧ a.toNat ≤ 0xFF ∧
    t.trace = s.trace ++ [.memRead a (s.progByte a)])

/-- R161: sequential execution past 0xFFF goes on at 0x000 with no report, and a two-byte instruction at 0xFFF takes its
second byte from 0x000. -/
def Obligations.ProgramCounterWrapsAtTheTop : Prop :=
  ∀ s : State, s.phase = .fetch → s.pc = 0xFFF →
    ∃ t, step s = .next t ∧ t.diagnostics = s.diagnostics ∧
      (isTwoByte (s.progByte 0xFFF) = false → t.pc = 0x000) ∧
      (isTwoByte (s.progByte 0xFFF) = true → t.pc = 0x001 ∧
        t.latch = some (decode (s.progByte 0xFFF) (s.progByte 0x000)))

/-! ## Reset and the host -/

/-- `reset()` (R27, R151; what it covers is decision D7, log 31): every field of CPUState gets its power-on value, the
values of the state after power-on; program storage, the collaborators' coming answers and the port trace are left alone
(R154; decision D20). -/
def Obligations.ResetZeroesTheCoreAndNothingElse : Prop :=
  (∀ s : State, ∃ t, act .reset s = .next t ∧
    (∀ r, t.readReg r = 0) ∧ t.acc = 0 ∧ t.cy = false ∧ t.pc = 0x000 ∧ (∀ k, t.slot k = 0x000) ∧ t.sp = 0 ∧
    t.phase = .fetch ∧ t.latch = none ∧ t.icount = 0 ∧ t.ccount = 0 ∧
    (∀ a, t.progByte a = s.progByte a) ∧ t.dataIn = s.dataIn ∧ t.statusIn = s.statusIn ∧ t.pinIn = s.pinIn ∧
    t.trace = s.trace) ∧
  act .reset State.reset = .next State.reset

/-- R153, R155: a reset between a FETCH step and its EXECUTE step discards the pending instruction without executing or
counting it, and the next step fetches at address 0x000 (decisions D7 and D21, log 31). -/
def Obligations.ResetDiscardsThePendingInstruction : Prop :=
  ∀ (s : State) (i : Instr), s.phase = .execute → s.latch = some i →
    ∃ u, runActions [.reset, .step] s = .next u ∧ u.icount = 0 ∧
      u.latch = some (decode (s.progByte 0x000) (s.progByte 0x001)) ∧ u.acc = 0 ∧ (∀ r, u.readReg r = 0) ∧
      (s.trace ++ [.memRead 0x000 (s.progByte 0x000)]) <+: u.trace

/-- R52 (decision D12, log 23): a byte the host places in program storage is seen by the next fetch at that address and not
by an instruction already latched; every other byte and the whole core are unchanged, and the canonical form is kept. -/
def Obligations.HostLoadIsSeenByTheNextFetchOnly : Prop :=
  ∀ (s : State) (a : Addr) (b : Byte), ∃ t, act (.load a b) s = .next t ∧ t.progByte a = b ∧
    Frame [.progByte a] s t ∧ (s.ProgOk → t.ProgOk) ∧
    (s.phase = .fetch → s.pc = a → ∃ u, step t = .next u ∧ (s.trace ++ [.memRead a b]) <+: u.trace)

/-! ## NOP and control transfer -/

/-- NOP (R83), WRR (R103) and RDR (R110) have no effect and make no port call. The bytes of WRR and RDR rest on decision
D15 (log 16). -/
def Obligations.NopWrrRdrChangeNothing : Prop :=
  DecodesTo [0x00#8] .nop ∧ DecodesTo [0xE2#8] .wrr ∧ DecodesTo [0xEA#8] .rdr ∧
  ∀ s : State, exec .nop s = .next s ∧ exec .wrr s = .next s ∧ exec .rdr s = .next s

/-- The condition of JCN as the truth table of R84 lists it, for every condition nibble: `z` the accumulator is zero, `nc`
the carry is false, `pin` the pin is true. -/
def jcnTable (c : Nibble) (nc z pin : Bool) : Bool :=
  match c.toNat with
  | 0 => false
  | 1 => true
  | 2 => pin
  | 3 => !pin
  | 4 => z
  | 5 => !z
  | 6 => z || pin
  | 7 => !(z || pin)
  | 8 => nc
  | 9 => !nc
  | 10 => nc || pin
  | 11 => !(nc || pin)
  | 12 => nc || z
  | 13 => !(nc || z)
  | 14 => nc || z || pin
  | _ => !(nc || z || pin)

/-- JCN (R84): it jumps exactly when its truth table says so, to the 8-bit address with the upper bits of `pc` cleared
(decision D2, log 10), and it samples the test pin once if condition bit 1 is set and not otherwise (decision D9, log 5). -/
def Obligations.JcnJumpsAsItsTruthTableSays : Prop :=
  ∀ (c : Nibble) (a : Byte) (s : State),
    DecodesTo [0x10#8 ||| c.setWidth 8, a] (.jcn c a) ∧
    ∃ t, exec (.jcn c a) s = .next t ∧
      (jcnTable c (decide (s.cy = false)) (decide (s.acc = 0)) s.pinAnswer = true → t.pc.toNat = a.toNat) ∧
      (jcnTable c (decide (s.cy = false)) (decide (s.acc = 0)) s.pinAnswer = false → t.pc = s.pc) ∧
      (c.getLsbD 1 = true → t.trace = s.trace ++ [.testPin s.pinAnswer] ∧ t.pinIn = s.pinIn.tail ∧
        Frame [.pc, .pinIn, .trace] s t) ∧
      (c.getLsbD 1 = false → Frame [.pc] s t)

/-- JIN (R85): the whole `pc` becomes the 8-bit value of the pair, `16*x[2p+1] + x[2p]`; the upper bits are cleared
(decision D2, log 10). -/
def Obligations.JinSetsPcToThePairValue : Prop :=
  ∀ (p : PairIdx) (s : State),
    DecodesTo [0x31#8 ||| p.setWidth 8 <<< 1] (.jin p) ∧
    ∃ t, exec (.jin p) s = .next t ∧ t.pc.toNat = pairValue s p ∧ Frame [.pc] s t

/-- JUN (R86) and JMS (R87): JUN sets `pc` to its 12-bit target; JMS also stores the current `pc` in the slot at the cursor
and moves the cursor on modulo 3. -/
def Obligations.JunAndJmsTransferControl : Prop :=
  ∀ (a : Addr) (s : State),
    DecodesTo [0x40#8 ||| (a.extractLsb' 8 4).setWidth 8, a.extractLsb' 0 8] (.jun a) ∧
    DecodesTo [0x50#8 ||| (a.extractLsb' 8 4).setWidth 8, a.extractLsb' 0 8] (.jms a) ∧
    (∃ t, exec (.jun a) s = .next t ∧ t.pc = a ∧ Frame [.pc] s t) ∧
    (∃ t, exec (.jms a) s = .next t ∧ t.slot s.sp = s.pc ∧ t.sp.val = (s.sp.val + 1) % 3 ∧ t.pc = a ∧
      Frame [.slot s.sp, .sp, .pc] s t)

/-- ISZ (R88): the register is incremented modulo 16; exactly when it wraps to zero `pc` becomes the 8-bit address with the
upper bits cleared (decision D2, log 10); the carry is not touched. -/
def Obligations.IszJumpsWhenTheRegisterWraps : Prop :=
  ∀ (r : Nibble) (a : Byte) (s : State),
    DecodesTo [0x70#8 ||| r.setWidth 8, a] (.isz r a) ∧
    ∃ t, exec (.isz r a) s = .next t ∧ (t.readReg r).toNat = ((s.readReg r).toNat + 1) % 16 ∧
      ((s.readReg r).toNat = 15 → t.pc.toNat = a.toNat) ∧ ((s.readReg r).toNat ≠ 15 → t.pc = s.pc) ∧
      Frame [.reg r, .pc] s t

/-- BBL (R89): the cursor moves back modulo 3, `pc` comes from the slot there, which keeps its value, and the accumulator
takes the immediate. -/
def Obligations.BblReturnsThroughTheStack : Prop :=
  ∀ (d : Nibble) (s : State),
    DecodesTo [0xC0#8 ||| d.setWidth 8] (.bbl d) ∧
    ∃ t, exec (.bbl d) s = .next t ∧ t.sp.val = (s.sp.val + 3 - 1) % 3 ∧ t.pc = s.slot t.sp ∧ t.acc = d ∧
      Frame [.sp, .pc, .acc] s t

/-- The stack round trip (95_test_vectors.md S6): three nested calls return in order, each BBL to the `pc` its call saved,
and the cursor is where it was. Wraparound is decision D4 (log 11). -/
def Obligations.ThreeNestedCallsReturnInOrder : Prop :=
  ∀ (t1 t2 t3 : Addr) (d1 d2 d3 : Nibble) (s : State), ∃ a b c,
    runActions [.execute (.jms t1), .execute (.jms t2), .execute (.jms t3), .execute (.bbl d3)] s = .next a ∧
    a.pc = t2 ∧ a.acc = d3 ∧
    runActions [.execute (.bbl d2)] a = .next b ∧ b.pc = t1 ∧ b.acc = d2 ∧
    runActions [.execute (.bbl d1)] b = .next c ∧ c.pc = s.pc ∧ c.acc = d1 ∧
    Frame [.slot 0, .slot 1, .slot 2, .pc, .acc] s c

/-- R159 (wraparound is decision D4, log 11): a fourth nested call overwrites the oldest return address, so the first three
returns are right and the fourth goes again to the address the fourth call saved; nothing is reported. A BBL with no call
before it goes to 0x000 from the state after reset. -/
def Obligations.FourthNestedCallLosesTheOldestReturn : Prop :=
  (∀ (t1 t2 t3 t4 : Addr) (d1 d2 d3 d4 : Nibble) (s : State), ∃ a b c e,
    runActions [.execute (.jms t1), .execute (.jms t2), .execute (.jms t3), .execute (.jms t4), .execute (.bbl d4)] s =
      .next a ∧ a.pc = t3 ∧
    runActions [.execute (.bbl d3)] a = .next b ∧ b.pc = t2 ∧
    runActions [.execute (.bbl d2)] b = .next c ∧ c.pc = t1 ∧
    runActions [.execute (.bbl d1)] c = .next e ∧ e.pc = t3 ∧
    Frame [.slot 0, .slot 1, .slot 2, .sp, .pc, .acc] s e) ∧
  (∀ d : Nibble, ∃ t, exec (.bbl d) State.reset = .next t ∧ t.pc = 0x000 ∧ t.acc = d)

/-! ## Register and immediate instructions -/

/-- A register pair is a view of two registers (R15): pair p reads as `16*x[2p+1] + x[2p]`; writing it writes the low nibble
to register 2p and the high nibble to register 2p+1 and nothing else; writing then reading gives the byte back. Bits 3 to 1
of the first byte of FIM, SRC, FIN and JIN name the pair. -/
def Obligations.RegisterPairIsAViewOfTwoRegisters : Prop :=
  ∀ (s : State) (p : PairIdx) (v : Byte),
    (s.pairRead p).toNat = pairValue s p ∧ (s.pairWrite p v).pairRead p = v ∧
    ((s.pairWrite p v).readReg (lowReg p)).toNat = v.toNat % 16 ∧
    ((s.pairWrite p v).readReg (highReg p)).toNat = v.toNat / 16 ∧
    Frame (pairComponents p) s (s.pairWrite p v) ∧
    DecodesTo [0x20#8 ||| p.setWidth 8 <<< 1, v] (.fim p v) ∧ DecodesTo [0x21#8 ||| p.setWidth 8 <<< 1] (.src p) ∧
    DecodesTo [0x30#8 ||| p.setWidth 8 <<< 1] (.fin p) ∧ DecodesTo [0x31#8 ||| p.setWidth 8 <<< 1] (.jin p)

/-- FIM (R91): the byte goes to the pair, low nibble to the even register. -/
def Obligations.FimLoadsThePair : Prop :=
  ∀ (p : PairIdx) (d : Byte) (s : State),
    DecodesTo [0x20#8 ||| p.setWidth 8 <<< 1, d] (.fim p d) ∧
    ∃ t, exec (.fim p d) s = .next t ∧ (t.readReg (lowReg p)).toNat = d.toNat % 16 ∧
      (t.readReg (highReg p)).toNat = d.toNat / 16 ∧ Frame (pairComponents p) s t

/-- FIN (R92): the program byte at the address in pair 0, zero-extended (decision D3, log 10), goes to the target pair;
pair 0 is read before the target is written; `pc` does not move; one program read is made. -/
def Obligations.FinLoadsThePairFromProgramStorage : Prop :=
  ∀ (p : PairIdx) (s : State),
    let a : Addr := BitVec.ofNat 12 (pairValue s 0)
    DecodesTo [0x30#8 ||| p.setWidth 8 <<< 1] (.fin p) ∧
    ∃ t, exec (.fin p) s = .next t ∧ (t.readReg (lowReg p)).toNat = (s.progByte a).toNat % 16 ∧
      (t.readReg (highReg p)).toNat = (s.progByte a).toNat / 16 ∧
      t.trace = s.trace ++ [.memRead a (s.progByte a)] ∧ Frame (.trace :: pairComponents p) s t

/-- INC (R93): the register is incremented modulo 16; the carry is not touched. -/
def Obligations.IncIncrementsTheRegister : Prop :=
  ∀ (r : Nibble) (s : State),
    DecodesTo [0x60#8 ||| r.setWidth 8] (.inc r) ∧
    ∃ t, exec (.inc r) s = .next t ∧ (t.readReg r).toNat = ((s.readReg r).toNat + 1) % 16 ∧ Frame [.reg r] s t

/-- ADD (R94): the exact sum of accumulator and register, without the incoming carry; the accumulator takes it modulo 16,
the carry says whether it passes 15. -/
def Obligations.AddIgnoresTheIncomingCarry : Prop :=
  ∀ (r : Nibble) (s : State),
    let sum := s.acc.toNat + (s.readReg r).toNat
    DecodesTo [0x80#8 ||| r.setWidth 8] (.add r) ∧
    ∃ t, exec (.add r) s = .next t ∧ t.acc.toNat = sum % 16 ∧ (t.cy = true ↔ sum > 15) ∧ Frame [.acc, .cy] s t

/-- SUB (R95): the exact difference of accumulator, register and one more where the carry is false; the accumulator takes it
modulo 16 (Euclidean), the carry says that no borrow occurred. -/
def Obligations.SubTreatsCarryAsNotBorrow : Prop :=
  ∀ (r : Nibble) (s : State),
    let diff : Int := (s.acc.toNat : Int) - ((s.readReg r).toNat : Int) - (if s.cy then 0 else 1)
    DecodesTo [0x90#8 ||| r.setWidth 8] (.sub r) ∧
    ∃ t, exec (.sub r) s = .next t ∧ (t.acc.toNat : Int) = diff % 16 ∧ (t.cy = true ↔ diff ≥ 0) ∧
      Frame [.acc, .cy] s t

/-- LD (R96), XCH (R97), LDM (R98): the accumulator takes the register, or swaps with it, or takes the immediate; the carry
is not touched. -/
def Obligations.LdXchLdmMoveNibbles : Prop :=
  ∀ (r d : Nibble) (s : State),
    DecodesTo [0xA0#8 ||| r.setWidth 8] (.ld r) ∧ DecodesTo [0xB0#8 ||| r.setWidth 8] (.xch r) ∧
    DecodesTo [0xD0#8 ||| d.setWidth 8] (.ldm d) ∧
    (∃ t, exec (.ld r) s = .next t ∧ t.acc = s.readReg r ∧ Frame [.acc] s t) ∧
    (∃ t, exec (.xch r) s = .next t ∧ t.acc = s.readReg r ∧ t.readReg r = s.acc ∧ Frame [.acc, .reg r] s t) ∧
    (∃ t, exec (.ldm d) s = .next t ∧ t.acc = d ∧ Frame [.acc] s t)

/-! ## Data memory and IO -/

/-- SRC (R100): the pair's 8-bit value goes unchanged to the address-select port, in one call; no core state is written. -/
def Obligations.SrcSendsThePairValue : Prop :=
  ∀ (p : PairIdx) (s : State),
    DecodesTo [0x21#8 ||| p.setWidth 8 <<< 1] (.src p) ∧
    ∃ t v, exec (.src p) s = .next t ∧ v.toNat = pairValue s p ∧ t.trace = s.trace ++ [.dataSetAddress v] ∧
      Frame [.trace] s t

/-- The writing instructions WRM (R101), WMP (R102), WR0 to WR3 (R104 to R107) and DCL (R116): each makes its one port call,
with the accumulator (DCL with its two low bits, WMP always with port 0), and writes no core state. Their bytes rest on
decision D15 (log 16). -/
def Obligations.PortWritesPassTheAccumulator : Prop :=
  DecodesTo [0xE0#8] .wrm ∧ DecodesTo [0xE1#8] .wmp ∧ DecodesTo [0xE4#8] .wr0 ∧ DecodesTo [0xE5#8] .wr1 ∧
  DecodesTo [0xE6#8] .wr2 ∧ DecodesTo [0xE7#8] .wr3 ∧ DecodesTo [0xFD#8] .dcl ∧
  ∀ s : State,
    (∃ t, exec .wrm s = .next t ∧ t.trace = s.trace ++ [.dataWrite s.acc] ∧ Frame [.trace] s t) ∧
    (∃ t, exec .wmp s = .next t ∧ t.trace = s.trace ++ [.ioWriteOutput 0 s.acc] ∧ Frame [.trace] s t) ∧
    (∃ t, exec .wr0 s = .next t ∧ t.trace = s.trace ++ [.statusWrite 0 s.acc] ∧ Frame [.trace] s t) ∧
    (∃ t, exec .wr1 s = .next t ∧ t.trace = s.trace ++ [.statusWrite 1 s.acc] ∧ Frame [.trace] s t) ∧
    (∃ t, exec .wr2 s = .next t ∧ t.trace = s.trace ++ [.statusWrite 2 s.acc] ∧ Frame [.trace] s t) ∧
    (∃ t, exec .wr3 s = .next t ∧ t.trace = s.trace ++ [.statusWrite 3 s.acc] ∧ Frame [.trace] s t) ∧
    (∃ t, exec .dcl s = .next t ∧ t.trace = s.trace ++ [.bankSelect (BitVec.ofNat 2 (s.acc.toNat % 4))] ∧
      Frame [.trace] s t)

/-- The reading instructions RDM (R109) and RD0 to RD3 (R112 to R115): the accumulator takes the answer of the one port
call, whatever it is; the carry is not touched. A given answer is the first of the coming ones, and where none is given it
is a free value (R43, decision D8; logs 3 and 4). Their bytes rest on decision D15 (log 16). -/
def Obligations.PortReadsLoadTheAnswer : Prop :=
  DecodesTo [0xE9#8] .rdm ∧ DecodesTo [0xEC#8] .rd0 ∧ DecodesTo [0xED#8] .rd1 ∧ DecodesTo [0xEE#8] .rd2 ∧
  DecodesTo [0xEF#8] .rd3 ∧
  ∀ s : State,
    (∃ t m, exec .rdm s = .next t ∧ m = s.dataIn.headD (Config.dataAnswer s.trace) ∧ t.acc = m ∧
      t.dataIn = s.dataIn.tail ∧ t.trace = s.trace ++ [.dataRead m] ∧ Frame [.acc, .dataIn, .trace] s t) ∧
    (∃ t m, exec .rd0 s = .next t ∧ m = s.statusIn.headD (Config.statusAnswer 0 s.trace) ∧ t.acc = m ∧
      t.statusIn = s.statusIn.tail ∧ t.trace = s.trace ++ [.statusRead 0 m] ∧ Frame [.acc, .statusIn, .trace] s t) ∧
    (∃ t m, exec .rd1 s = .next t ∧ m = s.statusIn.headD (Config.statusAnswer 1 s.trace) ∧ t.acc = m ∧
      t.statusIn = s.statusIn.tail ∧ t.trace = s.trace ++ [.statusRead 1 m] ∧ Frame [.acc, .statusIn, .trace] s t) ∧
    (∃ t m, exec .rd2 s = .next t ∧ m = s.statusIn.headD (Config.statusAnswer 2 s.trace) ∧ t.acc = m ∧
      t.statusIn = s.statusIn.tail ∧ t.trace = s.trace ++ [.statusRead 2 m] ∧ Frame [.acc, .statusIn, .trace] s t) ∧
    (∃ t m, exec .rd3 s = .next t ∧ m = s.statusIn.headD (Config.statusAnswer 3 s.trace) ∧ t.acc = m ∧
      t.statusIn = s.statusIn.tail ∧ t.trace = s.trace ++ [.statusRead 3 m] ∧ Frame [.acc, .statusIn, .trace] s t)

/-- ADM (R111): as ADD, with the answer of one data read in place of the register; the incoming carry is not added. Its byte
rests on decision D15 (log 16). -/
def Obligations.AdmAddsTheNibbleRead : Prop :=
  DecodesTo [0xEB#8] .adm ∧
  ∀ s : State, ∃ t m, exec .adm s = .next t ∧ m = s.dataIn.headD (Config.dataAnswer s.trace) ∧
    t.acc.toNat = (s.acc.toNat + m.toNat) % 16 ∧ (t.cy = true ↔ s.acc.toNat + m.toNat > 15) ∧
    t.dataIn = s.dataIn.tail ∧ t.trace = s.trace ++ [.dataRead m] ∧ Frame [.acc, .cy, .dataIn, .trace] s t

/-- SBM (R108): as SUB, with the answer of one data read in place of the register. Its byte rests on decision D15
(log 16). -/
def Obligations.SbmSubtractsTheNibbleRead : Prop :=
  DecodesTo [0xE8#8] .sbm ∧
  ∀ s : State, ∃ (t : State) (m : Nibble) (diff : Int), exec .sbm s = .next t ∧
    m = s.dataIn.headD (Config.dataAnswer s.trace) ∧
    diff = (s.acc.toNat : Int) - (m.toNat : Int) - (if s.cy then 0 else 1) ∧
    (t.acc.toNat : Int) = diff % 16 ∧ (t.cy = true ↔ diff ≥ 0) ∧
    t.dataIn = s.dataIn.tail ∧ t.trace = s.trace ++ [.dataRead m] ∧ Frame [.acc, .cy, .dataIn, .trace] s t

/-! ## Accumulator and carry -/

/-- CLB (R120), CLC (R121), CMC (R123), STC (R130), CMA (R124), TCC (R127), TCS (R129). Their bytes rest on decision D15
(log 16). -/
def Obligations.ClearComplementAndTransfer : Prop :=
  DecodesTo [0xF0#8] .clb ∧ DecodesTo [0xF1#8] .clc ∧ DecodesTo [0xF3#8] .cmc ∧ DecodesTo [0xF4#8] .cma ∧
  DecodesTo [0xF7#8] .tcc ∧ DecodesTo [0xF9#8] .tcs ∧ DecodesTo [0xFA#8] .stc ∧
  ∀ s : State,
    (∃ t, exec .clb s = .next t ∧ t.acc = 0 ∧ t.cy = false ∧ Frame [.acc, .cy] s t) ∧
    (∃ t, exec .clc s = .next t ∧ t.cy = false ∧ Frame [.cy] s t) ∧
    (∃ t, exec .cmc s = .next t ∧ t.cy = !s.cy ∧ Frame [.cy] s t) ∧
    (∃ t, exec .cma s = .next t ∧ t.acc.toNat = 15 - s.acc.toNat ∧ Frame [.acc] s t) ∧
    (∃ t, exec .tcc s = .next t ∧ t.acc.toNat = (if s.cy then 1 else 0) ∧ t.cy = false ∧ Frame [.acc, .cy] s t) ∧
    (∃ t, exec .tcs s = .next t ∧ t.acc.toNat = (if s.cy then 10 else 9) ∧ t.cy = false ∧ Frame [.acc, .cy] s t) ∧
    (∃ t, exec .stc s = .next t ∧ t.cy = true ∧ Frame [.cy] s t)

/-- IAC (R122) and DAC (R128): the accumulator moves by one modulo 16; after IAC the carry says that it wrapped to 0, after
DAC that it did not wrap to 15. Their bytes rest on decision D15 (log 16). -/
def Obligations.IacAndDacCountModuloSixteen : Prop :=
  DecodesTo [0xF2#8] .iac ∧ DecodesTo [0xF8#8] .dac ∧
  ∀ s : State,
    (∃ t, exec .iac s = .next t ∧ t.acc.toNat = (s.acc.toNat + 1) % 16 ∧ (t.cy = true ↔ t.acc.toNat = 0) ∧
      Frame [.acc, .cy] s t) ∧
    (∃ t, exec .dac s = .next t ∧ (t.acc.toNat : Int) = ((s.acc.toNat : Int) - 1) % 16 ∧
      (t.cy = true ↔ t.acc.toNat ≠ 15) ∧ Frame [.acc, .cy] s t)

/-- RAL (R125) and RAR (R126): a rotate of the five bits of carry and accumulator by one place; the bit shifted out is the
new carry, the old carry is shifted in. That RAL is the left one is decision D14 (log 15), the bytes are decision D15
(log 16). -/
def Obligations.RalAndRarRotateThroughCarry : Prop :=
  DecodesTo [0xF5#8] .ral ∧ DecodesTo [0xF6#8] .rar ∧
  ∀ s : State,
    (∃ t, exec .ral s = .next t ∧ t.acc.toNat = (2 * s.acc.toNat + s.cy.toNat) % 16 ∧
      (t.cy = true ↔ s.acc.toNat ≥ 8) ∧ Frame [.acc, .cy] s t) ∧
    (∃ t, exec .rar s = .next t ∧ t.acc.toNat = s.acc.toNat / 2 + 8 * s.cy.toNat ∧
      (t.cy = true ↔ s.acc.toNat % 2 = 1) ∧ Frame [.acc, .cy] s t)

/-- RAR undoes RAL, RAL undoes RAR, and five RALs restore accumulator and carry (the corner cases of R125 and R126; the
direction is decision D14, log 15). -/
def Obligations.RotatesUndoEachOther : Prop :=
  ∀ s : State,
    runActions [.execute .ral, .execute .rar] s = .next s ∧
    runActions [.execute .rar, .execute .ral] s = .next s ∧
    runActions (List.replicate 5 (.execute .ral)) s = .next s

/-- DAA (R131): above 9, or with the carry set, 6 is added modulo 16 and the carry set; otherwise nothing changes. Its byte
rests on decision D15 (log 16). -/
def Obligations.DaaAdjustsAboveNineOrWithCarry : Prop :=
  DecodesTo [0xFB#8] .daa ∧
  ∀ s : State, ∃ t, exec .daa s = .next t ∧
    (s.acc.toNat > 9 ∨ s.cy = true → t.acc.toNat = (s.acc.toNat + 6) % 16 ∧ t.cy = true) ∧
    (¬(s.acc.toNat > 9 ∨ s.cy = true) → t = s) ∧ Frame [.acc, .cy] s t

/-- KBP (R132, R138): a one-hot accumulator gives its bit index, every other pattern 15; no diagnostic and no carry. Its byte
rests on decision D15 (log 16). -/
def Obligations.KbpGivesTheBitIndexOrFifteen : Prop :=
  DecodesTo [0xFC#8] .kbp ∧
  ∀ s : State, ∃ t, exec .kbp s = .next t ∧
    (∀ k, k < 4 → s.acc.toNat = 2 ^ k → t.acc.toNat = k) ∧
    ((∀ k, k < 4 → s.acc.toNat ≠ 2 ^ k) → t.acc.toNat = 15) ∧ Frame [.acc] s t

/-! ## UNKNOWN -/

/-- UNKNOWN (R135, R136): executing it emits one diagnostic record of code 1, in the EXECUTE step, and changes nothing else;
a step-pair over an unmapped byte moves `pc` by one and counts like any other. The record's content is decision D5 (log 8);
what a step-pair does around it rests on decisions D1, D6 and D18 (logs 9, 12, 17). -/
def Obligations.UnknownEmitsOneDiagnosticAndGoesOn : Prop :=
  Diagnostic.unknownOpcode.code = 1 ∧
  (∀ s : State, ∃ t, exec .unknown s = .next t ∧ t.diagnostics = s.diagnostics ++ [.unknownOpcode] ∧
    t.trace = s.trace ++ [.diag .unknownOpcode] ∧ Frame [.trace] s t) ∧
  (∀ s : State, s.phase = .fetch → decode (s.progByte s.pc) (s.progByte (s.pc + 1)) = .unknown →
    ∃ u t, step s = .next u ∧ u.diagnostics = s.diagnostics ∧ step u = .next t ∧
      t.diagnostics = s.diagnostics ++ [.unknownOpcode] ∧ t.pc = s.pc + 1 ∧ t.icount = s.icount + 1 ∧
      Frame [.pc, .icount, .ccount, .latch, .trace] s t)
end

