-- ==== Sys2Proof/Laws/Memory.lean ====
section
/-! SUPPORT. The laws of program storage as a list of cells: read after write, and the canonical form, which every
operation keeps and which makes equal contents equal data. -/

namespace Sys2Proof.Machine

@[simp] theorem Memory.lookup_nil (a : Nat) : Memory.lookup [] a = none := rfl

theorem Memory.lookup_cons (b : Nat) (w : Byte) (m : List Host.Cell) (a : Nat) :
    Memory.lookup ((b, w) :: m) a = if a = b then some w else Memory.lookup m a := rfl

@[simp] theorem Memory.lookup_store_self (m : List Host.Cell) (a : Nat) (v : Byte) :
    Memory.lookup (Memory.store m a v) a = some v := by
  induction m with
  | nil => simp [Memory.store, Memory.lookup]
  | cons c m ih =>
    obtain ⟨b, w⟩ := c
    simp only [Memory.store]
    split
    · simp [Memory.lookup]
    · split
      · simp [Memory.lookup]
      · rename_i h
        simp [Memory.lookup, h, ih]

theorem Memory.lookup_store_of_ne (m : List Host.Cell) {a a' : Nat} (v : Byte) (h : a' ≠ a) :
    Memory.lookup (Memory.store m a v) a' = Memory.lookup m a' := by
  induction m with
  | nil => simp [Memory.store, Memory.lookup, h]
  | cons c m ih =>
    obtain ⟨b, w⟩ := c
    simp only [Memory.store]
    split
    · simp [Memory.lookup, h]
    · split
      · rename_i hab
        subst hab
        simp [Memory.lookup, h]
      · simp [Memory.lookup, ih]

/-- Storing at an address of the program space keeps the canonical form. -/
theorem Memory.store_wfFrom (m : List Host.Cell) (lo a : Nat) (v : Byte) (hm : Memory.wfFrom lo m = true) (hlo : lo ≤ a)
    (ha : a < Config.progSize) : Memory.wfFrom lo (Memory.store m a v) = true := by
  induction m generalizing lo with
  | nil => simp [Memory.store, Memory.wfFrom, hlo, ha]
  | cons c m ih =>
    obtain ⟨b, w⟩ := c
    simp only [Memory.wfFrom, Bool.and_eq_true, decide_eq_true_eq] at hm
    obtain ⟨⟨hb, hb'⟩, hm⟩ := hm
    simp only [Memory.store]
    split
    · rename_i hab
      simp only [Memory.wfFrom, Bool.and_eq_true, decide_eq_true_eq]
      exact ⟨⟨hlo, ha⟩, ⟨hab, hb'⟩, hm⟩
    · split
      · rename_i hab
        subst hab
        simp only [Memory.wfFrom, Bool.and_eq_true, decide_eq_true_eq]
        exact ⟨⟨hlo, ha⟩, hm⟩
      · rename_i hlt hne
        simp only [Memory.wfFrom, Bool.and_eq_true, decide_eq_true_eq]
        exact ⟨⟨hb, hb'⟩, ih (b + 1) hm (by omega)⟩

theorem Memory.store_wf (m : List Host.Cell) (a : Addr) (v : Byte) (hm : Memory.wf m = true) :
    Memory.wf (Memory.store m a.toNat v) = true :=
  Memory.store_wfFrom m 0 a.toNat v hm (Nat.zero_le _) a.isLt

/-- Below the first address a canonical list lists nothing. -/
theorem Memory.lookup_lt_wfFrom (m : List Host.Cell) (lo a : Nat) (hm : Memory.wfFrom lo m = true) (h : a < lo) :
    Memory.lookup m a = none := by
  induction m generalizing lo with
  | nil => rfl
  | cons c m ih =>
    obtain ⟨b, w⟩ := c
    simp only [Memory.wfFrom, Bool.and_eq_true, decide_eq_true_eq] at hm
    have hne : a ≠ b := by omega
    simp only [Memory.lookup, hne, if_false]
    exact ih (b + 1) hm.2 (by omega)

/-- The canonical form: contents that list the same bytes are the same list. -/
theorem Memory.wfFrom_ext (m m' : List Host.Cell) (lo lo' : Nat) (hm : Memory.wfFrom lo m = true)
    (hm' : Memory.wfFrom lo' m' = true) (h : ∀ a, Memory.lookup m a = Memory.lookup m' a) : m = m' := by
  induction m generalizing lo lo' m' with
  | nil =>
    cases m' with
    | nil => rfl
    | cons c m' =>
      have := h c.1
      simp [Memory.lookup] at this
  | cons c m ih =>
    cases m' with
    | nil =>
      have := h c.1
      simp [Memory.lookup] at this
    | cons c' m' =>
      obtain ⟨b, w⟩ := c
      obtain ⟨b', w'⟩ := c'
      simp only [Memory.wfFrom, Bool.and_eq_true, decide_eq_true_eq] at hm hm'
      have hbb : b = b' := by
        rcases Nat.lt_trichotomy b b' with hlt | heq | hgt
        · have h1 := h b
          have h2 := Memory.lookup_lt_wfFrom m' (b' + 1) b hm'.2 (by omega)
          have hne : b ≠ b' := by omega
          simp [Memory.lookup, hne, h2] at h1
        · exact heq
        · have h1 := h b'
          have h2 := Memory.lookup_lt_wfFrom m (b + 1) b' hm.2 (by omega)
          have hne : b' ≠ b := by omega
          simp [Memory.lookup, hne, h2] at h1
      subst hbb
      have hww : w = w' := by
        have h1 := h b
        simpa [Memory.lookup] using h1
      subst hww
      have htl : m = m' := by
        refine ih m' (b + 1) (b + 1) hm.2 hm'.2 fun a => ?_
        by_cases hab : a = b
        · subst hab
          rw [Memory.lookup_lt_wfFrom m _ a hm.2 (by omega), Memory.lookup_lt_wfFrom m' _ a hm'.2 (by omega)]
        · have h1 := h a
          simpa [Memory.lookup, hab] using h1
      rw [htl]

theorem Memory.wf_ext (m m' : List Host.Cell) (hm : Memory.wf m = true) (hm' : Memory.wf m' = true)
    (h : ∀ a, Memory.lookup m a = Memory.lookup m' a) : m = m' :=
  Memory.wfFrom_ext m m' 0 0 hm hm' h

/-- Program storage after reset has the canonical form. -/
theorem State.reset_prog_wf : Memory.wf State.reset.prog = true := rfl

/-- Placing bytes keeps the canonical form. -/
theorem State.loadBytes_wf (bs : List Byte) (s : State) (a : Addr) (hs : Memory.wf s.prog = true) :
    Memory.wf (s.loadBytes a bs).prog = true := by
  induction bs generalizing s a with
  | nil => exact hs
  | cons b bs ih => exact ih (s.load a b) (a + 1) (Memory.store_wf s.prog a b hs)

@[simp] theorem State.progByte_load_self (s : State) (a : Addr) (b : Byte) : (s.load a b).progByte a = b := by
  simp [State.progByte, State.load]

theorem State.progByte_load_of_ne (s : State) {a a' : Addr} (b : Byte) (h : a' ≠ a) :
    (s.load a b).progByte a' = s.progByte a' := by
  have hne : a'.toNat ≠ a.toNat := fun e => h (BitVec.eq_of_toNat_eq e)
  simp [State.progByte, State.load, Memory.lookup_store_of_ne _ _ hne]

end Sys2Proof.Machine
end

