-- ==== Sys2Proof/Laws/State.lean ====
section
/-! SUPPORT. One lemma per field per update of the state, each true by rfl and a simp lemma, so that no proof unfolds an
update; and what the derived reads give after each update. -/

namespace Sys2Proof.Machine

/-! ### `writeReg` -/

@[simp] theorem State.writeReg_acc (s : State) (r v : Nibble) : (s.writeReg r v).acc = s.acc := rfl
@[simp] theorem State.writeReg_cy (s : State) (r v : Nibble) : (s.writeReg r v).cy = s.cy := rfl
@[simp] theorem State.writeReg_pc (s : State) (r v : Nibble) : (s.writeReg r v).pc = s.pc := rfl
@[simp] theorem State.writeReg_stack (s : State) (r v : Nibble) : (s.writeReg r v).stack = s.stack := rfl
@[simp] theorem State.writeReg_sp (s : State) (r v : Nibble) : (s.writeReg r v).sp = s.sp := rfl
@[simp] theorem State.writeReg_phase (s : State) (r v : Nibble) : (s.writeReg r v).phase = s.phase := rfl
@[simp] theorem State.writeReg_latch (s : State) (r v : Nibble) : (s.writeReg r v).latch = s.latch := rfl
@[simp] theorem State.writeReg_icount (s : State) (r v : Nibble) : (s.writeReg r v).icount = s.icount := rfl
@[simp] theorem State.writeReg_ccount (s : State) (r v : Nibble) : (s.writeReg r v).ccount = s.ccount := rfl
@[simp] theorem State.writeReg_prog (s : State) (r v : Nibble) : (s.writeReg r v).prog = s.prog := rfl
@[simp] theorem State.writeReg_dataIn (s : State) (r v : Nibble) : (s.writeReg r v).dataIn = s.dataIn := rfl
@[simp] theorem State.writeReg_statusIn (s : State) (r v : Nibble) : (s.writeReg r v).statusIn = s.statusIn := rfl
@[simp] theorem State.writeReg_pinIn (s : State) (r v : Nibble) : (s.writeReg r v).pinIn = s.pinIn := rfl
@[simp] theorem State.writeReg_trace (s : State) (r v : Nibble) : (s.writeReg r v).trace = s.trace := rfl

/-! ### `setAcc` -/

@[simp] theorem State.setAcc_x (s : State) (v : Nibble) : (s.setAcc v).x = s.x := rfl
@[simp] theorem State.setAcc_acc (s : State) (v : Nibble) : (s.setAcc v).acc = v := rfl
@[simp] theorem State.setAcc_cy (s : State) (v : Nibble) : (s.setAcc v).cy = s.cy := rfl
@[simp] theorem State.setAcc_pc (s : State) (v : Nibble) : (s.setAcc v).pc = s.pc := rfl
@[simp] theorem State.setAcc_stack (s : State) (v : Nibble) : (s.setAcc v).stack = s.stack := rfl
@[simp] theorem State.setAcc_sp (s : State) (v : Nibble) : (s.setAcc v).sp = s.sp := rfl
@[simp] theorem State.setAcc_phase (s : State) (v : Nibble) : (s.setAcc v).phase = s.phase := rfl
@[simp] theorem State.setAcc_latch (s : State) (v : Nibble) : (s.setAcc v).latch = s.latch := rfl
@[simp] theorem State.setAcc_icount (s : State) (v : Nibble) : (s.setAcc v).icount = s.icount := rfl
@[simp] theorem State.setAcc_ccount (s : State) (v : Nibble) : (s.setAcc v).ccount = s.ccount := rfl
@[simp] theorem State.setAcc_prog (s : State) (v : Nibble) : (s.setAcc v).prog = s.prog := rfl
@[simp] theorem State.setAcc_dataIn (s : State) (v : Nibble) : (s.setAcc v).dataIn = s.dataIn := rfl
@[simp] theorem State.setAcc_statusIn (s : State) (v : Nibble) : (s.setAcc v).statusIn = s.statusIn := rfl
@[simp] theorem State.setAcc_pinIn (s : State) (v : Nibble) : (s.setAcc v).pinIn = s.pinIn := rfl
@[simp] theorem State.setAcc_trace (s : State) (v : Nibble) : (s.setAcc v).trace = s.trace := rfl

/-! ### `setCy` -/

@[simp] theorem State.setCy_x (s : State) (b : Bool) : (s.setCy b).x = s.x := rfl
@[simp] theorem State.setCy_acc (s : State) (b : Bool) : (s.setCy b).acc = s.acc := rfl
@[simp] theorem State.setCy_cy (s : State) (b : Bool) : (s.setCy b).cy = b := rfl
@[simp] theorem State.setCy_pc (s : State) (b : Bool) : (s.setCy b).pc = s.pc := rfl
@[simp] theorem State.setCy_stack (s : State) (b : Bool) : (s.setCy b).stack = s.stack := rfl
@[simp] theorem State.setCy_sp (s : State) (b : Bool) : (s.setCy b).sp = s.sp := rfl
@[simp] theorem State.setCy_phase (s : State) (b : Bool) : (s.setCy b).phase = s.phase := rfl
@[simp] theorem State.setCy_latch (s : State) (b : Bool) : (s.setCy b).latch = s.latch := rfl
@[simp] theorem State.setCy_icount (s : State) (b : Bool) : (s.setCy b).icount = s.icount := rfl
@[simp] theorem State.setCy_ccount (s : State) (b : Bool) : (s.setCy b).ccount = s.ccount := rfl
@[simp] theorem State.setCy_prog (s : State) (b : Bool) : (s.setCy b).prog = s.prog := rfl
@[simp] theorem State.setCy_dataIn (s : State) (b : Bool) : (s.setCy b).dataIn = s.dataIn := rfl
@[simp] theorem State.setCy_statusIn (s : State) (b : Bool) : (s.setCy b).statusIn = s.statusIn := rfl
@[simp] theorem State.setCy_pinIn (s : State) (b : Bool) : (s.setCy b).pinIn = s.pinIn := rfl
@[simp] theorem State.setCy_trace (s : State) (b : Bool) : (s.setCy b).trace = s.trace := rfl

/-! ### `setPc` -/

@[simp] theorem State.setPc_x (s : State) (t : Addr) : (s.setPc t).x = s.x := rfl
@[simp] theorem State.setPc_acc (s : State) (t : Addr) : (s.setPc t).acc = s.acc := rfl
@[simp] theorem State.setPc_cy (s : State) (t : Addr) : (s.setPc t).cy = s.cy := rfl
@[simp] theorem State.setPc_pc (s : State) (t : Addr) : (s.setPc t).pc = t := rfl
@[simp] theorem State.setPc_stack (s : State) (t : Addr) : (s.setPc t).stack = s.stack := rfl
@[simp] theorem State.setPc_sp (s : State) (t : Addr) : (s.setPc t).sp = s.sp := rfl
@[simp] theorem State.setPc_phase (s : State) (t : Addr) : (s.setPc t).phase = s.phase := rfl
@[simp] theorem State.setPc_latch (s : State) (t : Addr) : (s.setPc t).latch = s.latch := rfl
@[simp] theorem State.setPc_icount (s : State) (t : Addr) : (s.setPc t).icount = s.icount := rfl
@[simp] theorem State.setPc_ccount (s : State) (t : Addr) : (s.setPc t).ccount = s.ccount := rfl
@[simp] theorem State.setPc_prog (s : State) (t : Addr) : (s.setPc t).prog = s.prog := rfl
@[simp] theorem State.setPc_dataIn (s : State) (t : Addr) : (s.setPc t).dataIn = s.dataIn := rfl
@[simp] theorem State.setPc_statusIn (s : State) (t : Addr) : (s.setPc t).statusIn = s.statusIn := rfl
@[simp] theorem State.setPc_pinIn (s : State) (t : Addr) : (s.setPc t).pinIn = s.pinIn := rfl
@[simp] theorem State.setPc_trace (s : State) (t : Addr) : (s.setPc t).trace = s.trace := rfl

/-! ### `push` -/

@[simp] theorem State.push_x (s : State) (t : Addr) : (s.push t).x = s.x := rfl
@[simp] theorem State.push_acc (s : State) (t : Addr) : (s.push t).acc = s.acc := rfl
@[simp] theorem State.push_cy (s : State) (t : Addr) : (s.push t).cy = s.cy := rfl
@[simp] theorem State.push_pc (s : State) (t : Addr) : (s.push t).pc = s.pc := rfl
@[simp] theorem State.push_stack (s : State) (t : Addr) : (s.push t).stack = s.stack.set s.sp.val t := rfl
@[simp] theorem State.push_sp (s : State) (t : Addr) : (s.push t).sp = s.sp + 1 := rfl
@[simp] theorem State.push_phase (s : State) (t : Addr) : (s.push t).phase = s.phase := rfl
@[simp] theorem State.push_latch (s : State) (t : Addr) : (s.push t).latch = s.latch := rfl
@[simp] theorem State.push_icount (s : State) (t : Addr) : (s.push t).icount = s.icount := rfl
@[simp] theorem State.push_ccount (s : State) (t : Addr) : (s.push t).ccount = s.ccount := rfl
@[simp] theorem State.push_prog (s : State) (t : Addr) : (s.push t).prog = s.prog := rfl
@[simp] theorem State.push_dataIn (s : State) (t : Addr) : (s.push t).dataIn = s.dataIn := rfl
@[simp] theorem State.push_statusIn (s : State) (t : Addr) : (s.push t).statusIn = s.statusIn := rfl
@[simp] theorem State.push_pinIn (s : State) (t : Addr) : (s.push t).pinIn = s.pinIn := rfl
@[simp] theorem State.push_trace (s : State) (t : Addr) : (s.push t).trace = s.trace := rfl

/-! ### `record` -/

@[simp] theorem State.record_x (s : State) (c : PortCall) : (s.record c).x = s.x := rfl
@[simp] theorem State.record_acc (s : State) (c : PortCall) : (s.record c).acc = s.acc := rfl
@[simp] theorem State.record_cy (s : State) (c : PortCall) : (s.record c).cy = s.cy := rfl
@[simp] theorem State.record_pc (s : State) (c : PortCall) : (s.record c).pc = s.pc := rfl
@[simp] theorem State.record_stack (s : State) (c : PortCall) : (s.record c).stack = s.stack := rfl
@[simp] theorem State.record_sp (s : State) (c : PortCall) : (s.record c).sp = s.sp := rfl
@[simp] theorem State.record_phase (s : State) (c : PortCall) : (s.record c).phase = s.phase := rfl
@[simp] theorem State.record_latch (s : State) (c : PortCall) : (s.record c).latch = s.latch := rfl
@[simp] theorem State.record_icount (s : State) (c : PortCall) : (s.record c).icount = s.icount := rfl
@[simp] theorem State.record_ccount (s : State) (c : PortCall) : (s.record c).ccount = s.ccount := rfl
@[simp] theorem State.record_prog (s : State) (c : PortCall) : (s.record c).prog = s.prog := rfl
@[simp] theorem State.record_dataIn (s : State) (c : PortCall) : (s.record c).dataIn = s.dataIn := rfl
@[simp] theorem State.record_statusIn (s : State) (c : PortCall) : (s.record c).statusIn = s.statusIn := rfl
@[simp] theorem State.record_pinIn (s : State) (c : PortCall) : (s.record c).pinIn = s.pinIn := rfl
@[simp] theorem State.record_trace (s : State) (c : PortCall) : (s.record c).trace = s.trace ++ [c] := rfl

/-! ### `load` -/

@[simp] theorem State.load_x (s : State) (a : Addr) (b : Byte) : (s.load a b).x = s.x := rfl
@[simp] theorem State.load_acc (s : State) (a : Addr) (b : Byte) : (s.load a b).acc = s.acc := rfl
@[simp] theorem State.load_cy (s : State) (a : Addr) (b : Byte) : (s.load a b).cy = s.cy := rfl
@[simp] theorem State.load_pc (s : State) (a : Addr) (b : Byte) : (s.load a b).pc = s.pc := rfl
@[simp] theorem State.load_stack (s : State) (a : Addr) (b : Byte) : (s.load a b).stack = s.stack := rfl
@[simp] theorem State.load_sp (s : State) (a : Addr) (b : Byte) : (s.load a b).sp = s.sp := rfl
@[simp] theorem State.load_phase (s : State) (a : Addr) (b : Byte) : (s.load a b).phase = s.phase := rfl
@[simp] theorem State.load_latch (s : State) (a : Addr) (b : Byte) : (s.load a b).latch = s.latch := rfl
@[simp] theorem State.load_icount (s : State) (a : Addr) (b : Byte) : (s.load a b).icount = s.icount := rfl
@[simp] theorem State.load_ccount (s : State) (a : Addr) (b : Byte) : (s.load a b).ccount = s.ccount := rfl
@[simp] theorem State.load_prog (s : State) (a : Addr) (b : Byte) : (s.load a b).prog = Memory.store s.prog a.toNat b := rfl
@[simp] theorem State.load_dataIn (s : State) (a : Addr) (b : Byte) : (s.load a b).dataIn = s.dataIn := rfl
@[simp] theorem State.load_statusIn (s : State) (a : Addr) (b : Byte) : (s.load a b).statusIn = s.statusIn := rfl
@[simp] theorem State.load_pinIn (s : State) (a : Addr) (b : Byte) : (s.load a b).pinIn = s.pinIn := rfl
@[simp] theorem State.load_trace (s : State) (a : Addr) (b : Byte) : (s.load a b).trace = s.trace := rfl

/-! ### `countCycle` -/

@[simp] theorem State.countCycle_x (s : State) : (s.countCycle).x = s.x := rfl
@[simp] theorem State.countCycle_acc (s : State) : (s.countCycle).acc = s.acc := rfl
@[simp] theorem State.countCycle_cy (s : State) : (s.countCycle).cy = s.cy := rfl
@[simp] theorem State.countCycle_pc (s : State) : (s.countCycle).pc = s.pc := rfl
@[simp] theorem State.countCycle_stack (s : State) : (s.countCycle).stack = s.stack := rfl
@[simp] theorem State.countCycle_sp (s : State) : (s.countCycle).sp = s.sp := rfl
@[simp] theorem State.countCycle_phase (s : State) : (s.countCycle).phase = s.phase := rfl
@[simp] theorem State.countCycle_latch (s : State) : (s.countCycle).latch = s.latch := rfl
@[simp] theorem State.countCycle_icount (s : State) : (s.countCycle).icount = s.icount := rfl
@[simp] theorem State.countCycle_ccount (s : State) : (s.countCycle).ccount = s.ccount + 1 := rfl
@[simp] theorem State.countCycle_prog (s : State) : (s.countCycle).prog = s.prog := rfl
@[simp] theorem State.countCycle_dataIn (s : State) : (s.countCycle).dataIn = s.dataIn := rfl
@[simp] theorem State.countCycle_statusIn (s : State) : (s.countCycle).statusIn = s.statusIn := rfl
@[simp] theorem State.countCycle_pinIn (s : State) : (s.countCycle).pinIn = s.pinIn := rfl
@[simp] theorem State.countCycle_trace (s : State) : (s.countCycle).trace = s.trace := rfl

/-! ### `latchInstr` -/

@[simp] theorem State.latchInstr_x (s : State) (i : Instr) : (s.latchInstr i).x = s.x := rfl
@[simp] theorem State.latchInstr_acc (s : State) (i : Instr) : (s.latchInstr i).acc = s.acc := rfl
@[simp] theorem State.latchInstr_cy (s : State) (i : Instr) : (s.latchInstr i).cy = s.cy := rfl
@[simp] theorem State.latchInstr_pc (s : State) (i : Instr) : (s.latchInstr i).pc = s.pc := rfl
@[simp] theorem State.latchInstr_stack (s : State) (i : Instr) : (s.latchInstr i).stack = s.stack := rfl
@[simp] theorem State.latchInstr_sp (s : State) (i : Instr) : (s.latchInstr i).sp = s.sp := rfl
@[simp] theorem State.latchInstr_phase (s : State) (i : Instr) : (s.latchInstr i).phase = .execute := rfl
@[simp] theorem State.latchInstr_latch (s : State) (i : Instr) : (s.latchInstr i).latch = some i := rfl
@[simp] theorem State.latchInstr_icount (s : State) (i : Instr) : (s.latchInstr i).icount = s.icount := rfl
@[simp] theorem State.latchInstr_ccount (s : State) (i : Instr) : (s.latchInstr i).ccount = s.ccount := rfl
@[simp] theorem State.latchInstr_prog (s : State) (i : Instr) : (s.latchInstr i).prog = s.prog := rfl
@[simp] theorem State.latchInstr_dataIn (s : State) (i : Instr) : (s.latchInstr i).dataIn = s.dataIn := rfl
@[simp] theorem State.latchInstr_statusIn (s : State) (i : Instr) : (s.latchInstr i).statusIn = s.statusIn := rfl
@[simp] theorem State.latchInstr_pinIn (s : State) (i : Instr) : (s.latchInstr i).pinIn = s.pinIn := rfl
@[simp] theorem State.latchInstr_trace (s : State) (i : Instr) : (s.latchInstr i).trace = s.trace := rfl

/-! ### `retire` -/

@[simp] theorem State.retire_x (s : State) : (s.retire).x = s.x := rfl
@[simp] theorem State.retire_acc (s : State) : (s.retire).acc = s.acc := rfl
@[simp] theorem State.retire_cy (s : State) : (s.retire).cy = s.cy := rfl
@[simp] theorem State.retire_pc (s : State) : (s.retire).pc = s.pc := rfl
@[simp] theorem State.retire_stack (s : State) : (s.retire).stack = s.stack := rfl
@[simp] theorem State.retire_sp (s : State) : (s.retire).sp = s.sp := rfl
@[simp] theorem State.retire_phase (s : State) : (s.retire).phase = .fetch := rfl
@[simp] theorem State.retire_latch (s : State) : (s.retire).latch = none := rfl
@[simp] theorem State.retire_icount (s : State) : (s.retire).icount = s.icount + 1 := rfl
@[simp] theorem State.retire_ccount (s : State) : (s.retire).ccount = s.ccount := rfl
@[simp] theorem State.retire_prog (s : State) : (s.retire).prog = s.prog := rfl
@[simp] theorem State.retire_dataIn (s : State) : (s.retire).dataIn = s.dataIn := rfl
@[simp] theorem State.retire_statusIn (s : State) : (s.retire).statusIn = s.statusIn := rfl
@[simp] theorem State.retire_pinIn (s : State) : (s.retire).pinIn = s.pinIn := rfl
@[simp] theorem State.retire_trace (s : State) : (s.retire).trace = s.trace := rfl

/-! ### `hostReset` -/

@[simp] theorem State.hostReset_x (s : State) : (s.hostReset).x = State.reset.x := rfl
@[simp] theorem State.hostReset_acc (s : State) : (s.hostReset).acc = State.reset.acc := rfl
@[simp] theorem State.hostReset_cy (s : State) : (s.hostReset).cy = State.reset.cy := rfl
@[simp] theorem State.hostReset_pc (s : State) : (s.hostReset).pc = State.reset.pc := rfl
@[simp] theorem State.hostReset_stack (s : State) : (s.hostReset).stack = State.reset.stack := rfl
@[simp] theorem State.hostReset_sp (s : State) : (s.hostReset).sp = State.reset.sp := rfl
@[simp] theorem State.hostReset_phase (s : State) : (s.hostReset).phase = State.reset.phase := rfl
@[simp] theorem State.hostReset_latch (s : State) : (s.hostReset).latch = State.reset.latch := rfl
@[simp] theorem State.hostReset_icount (s : State) : (s.hostReset).icount = State.reset.icount := rfl
@[simp] theorem State.hostReset_ccount (s : State) : (s.hostReset).ccount = State.reset.ccount := rfl
@[simp] theorem State.hostReset_prog (s : State) : (s.hostReset).prog = s.prog := rfl
@[simp] theorem State.hostReset_dataIn (s : State) : (s.hostReset).dataIn = s.dataIn := rfl
@[simp] theorem State.hostReset_statusIn (s : State) : (s.hostReset).statusIn = s.statusIn := rfl
@[simp] theorem State.hostReset_pinIn (s : State) : (s.hostReset).pinIn = s.pinIn := rfl
@[simp] theorem State.hostReset_trace (s : State) : (s.hostReset).trace = s.trace := rfl

/-! ### Reads of the register file -/

@[simp] theorem State.readReg_writeReg_self (s : State) (r v : Nibble) : (s.writeReg r v).readReg r = v := by
  simp [State.readReg, State.writeReg]

theorem State.readReg_writeReg_of_ne (s : State) {r q : Nibble} (v : Nibble) (h : q ≠ r) :
    (s.writeReg r v).readReg q = s.readReg q := by
  have hne : r.toNat ≠ q.toNat := fun e => h (BitVec.eq_of_toNat_eq e.symm)
  simp [State.readReg, State.writeReg, hne]

theorem State.readReg_writeReg (s : State) (r v q : Nibble) :
    (s.writeReg r v).readReg q = if q = r then v else s.readReg q := by
  by_cases h : q = r
  · subst h; simp
  · simp [h, s.readReg_writeReg_of_ne v h]

@[simp] theorem State.readReg_setAcc (s : State) (v : Nibble) (q : Nibble) :
    (s.setAcc v).readReg q = s.readReg q := rfl
@[simp] theorem State.readReg_setCy (s : State) (b : Bool) (q : Nibble) :
    (s.setCy b).readReg q = s.readReg q := rfl
@[simp] theorem State.readReg_setPc (s : State) (t : Addr) (q : Nibble) :
    (s.setPc t).readReg q = s.readReg q := rfl
@[simp] theorem State.readReg_push (s : State) (t : Addr) (q : Nibble) :
    (s.push t).readReg q = s.readReg q := rfl
@[simp] theorem State.readReg_record (s : State) (c : PortCall) (q : Nibble) :
    (s.record c).readReg q = s.readReg q := rfl
@[simp] theorem State.readReg_load (s : State) (a : Addr) (b : Byte) (q : Nibble) :
    (s.load a b).readReg q = s.readReg q := rfl
@[simp] theorem State.readReg_countCycle (s : State) (q : Nibble) :
    (s.countCycle).readReg q = s.readReg q := rfl
@[simp] theorem State.readReg_latchInstr (s : State) (i : Instr) (q : Nibble) :
    (s.latchInstr i).readReg q = s.readReg q := rfl
@[simp] theorem State.readReg_retire (s : State) (q : Nibble) :
    (s.retire).readReg q = s.readReg q := rfl

/-! ### Reads of a register pair -/

@[simp] theorem State.pairRead_setAcc (s : State) (v : Nibble) (p : PairIdx) :
    (s.setAcc v).pairRead p = s.pairRead p := rfl
@[simp] theorem State.pairRead_setCy (s : State) (b : Bool) (p : PairIdx) :
    (s.setCy b).pairRead p = s.pairRead p := rfl
@[simp] theorem State.pairRead_setPc (s : State) (t : Addr) (p : PairIdx) :
    (s.setPc t).pairRead p = s.pairRead p := rfl
@[simp] theorem State.pairRead_push (s : State) (t : Addr) (p : PairIdx) :
    (s.push t).pairRead p = s.pairRead p := rfl
@[simp] theorem State.pairRead_record (s : State) (c : PortCall) (p : PairIdx) :
    (s.record c).pairRead p = s.pairRead p := rfl
@[simp] theorem State.pairRead_load (s : State) (a : Addr) (b : Byte) (p : PairIdx) :
    (s.load a b).pairRead p = s.pairRead p := rfl
@[simp] theorem State.pairRead_countCycle (s : State) (p : PairIdx) :
    (s.countCycle).pairRead p = s.pairRead p := rfl
@[simp] theorem State.pairRead_latchInstr (s : State) (i : Instr) (p : PairIdx) :
    (s.latchInstr i).pairRead p = s.pairRead p := rfl
@[simp] theorem State.pairRead_retire (s : State) (p : PairIdx) :
    (s.retire).pairRead p = s.pairRead p := rfl

/-! ### Reads of the stack -/

@[simp] theorem State.slot_writeReg (s : State) (r v : Nibble) (k : Fin 3) :
    (s.writeReg r v).slot k = s.slot k := rfl
@[simp] theorem State.slot_setAcc (s : State) (v : Nibble) (k : Fin 3) :
    (s.setAcc v).slot k = s.slot k := rfl
@[simp] theorem State.slot_setCy (s : State) (b : Bool) (k : Fin 3) :
    (s.setCy b).slot k = s.slot k := rfl
@[simp] theorem State.slot_setPc (s : State) (t : Addr) (k : Fin 3) :
    (s.setPc t).slot k = s.slot k := rfl
@[simp] theorem State.slot_record (s : State) (c : PortCall) (k : Fin 3) :
    (s.record c).slot k = s.slot k := rfl
@[simp] theorem State.slot_load (s : State) (a : Addr) (b : Byte) (k : Fin 3) :
    (s.load a b).slot k = s.slot k := rfl
@[simp] theorem State.slot_countCycle (s : State) (k : Fin 3) :
    (s.countCycle).slot k = s.slot k := rfl
@[simp] theorem State.slot_latchInstr (s : State) (i : Instr) (k : Fin 3) :
    (s.latchInstr i).slot k = s.slot k := rfl
@[simp] theorem State.slot_retire (s : State) (k : Fin 3) :
    (s.retire).slot k = s.slot k := rfl

@[simp] theorem State.slot_push_self (s : State) (t : Addr) : (s.push t).slot s.sp = t := by
  simp [State.slot, State.push]

theorem State.slot_push_of_ne (s : State) (t : Addr) {k : Fin 3} (h : k ≠ s.sp) :
    (s.push t).slot k = s.slot k := by
  have hne : s.sp.val ≠ k.val := fun e => h (Fin.ext e.symm)
  simp [State.slot, State.push, hne]

theorem State.slot_push (s : State) (t : Addr) (k : Fin 3) :
    (s.push t).slot k = if k = s.sp then t else s.slot k := by
  by_cases h : k = s.sp
  · subst h; simp
  · simp [h, s.slot_push_of_ne t h]

/-! ### Reads of program storage -/

@[simp] theorem State.progByte_writeReg (s : State) (r v : Nibble) (a' : Addr) :
    (s.writeReg r v).progByte a' = s.progByte a' := rfl
@[simp] theorem State.progByte_setAcc (s : State) (v : Nibble) (a' : Addr) :
    (s.setAcc v).progByte a' = s.progByte a' := rfl
@[simp] theorem State.progByte_setCy (s : State) (b : Bool) (a' : Addr) :
    (s.setCy b).progByte a' = s.progByte a' := rfl
@[simp] theorem State.progByte_setPc (s : State) (t : Addr) (a' : Addr) :
    (s.setPc t).progByte a' = s.progByte a' := rfl
@[simp] theorem State.progByte_push (s : State) (t : Addr) (a' : Addr) :
    (s.push t).progByte a' = s.progByte a' := rfl
@[simp] theorem State.progByte_record (s : State) (c : PortCall) (a' : Addr) :
    (s.record c).progByte a' = s.progByte a' := rfl
@[simp] theorem State.progByte_countCycle (s : State) (a' : Addr) :
    (s.countCycle).progByte a' = s.progByte a' := rfl
@[simp] theorem State.progByte_latchInstr (s : State) (i : Instr) (a' : Addr) :
    (s.latchInstr i).progByte a' = s.progByte a' := rfl
@[simp] theorem State.progByte_retire (s : State) (a' : Addr) :
    (s.retire).progByte a' = s.progByte a' := rfl
@[simp] theorem State.progByte_hostReset (s : State) (a' : Addr) :
    (s.hostReset).progByte a' = s.progByte a' := rfl

/-! ### The state is determined by its reads -/

/-- Two register files that read the same are the same. -/
theorem State.x_ext {s t : State} (h : ∀ r, t.readReg r = s.readReg r) : t.x = s.x := by
  apply Vector.ext
  intro i hi
  have := h (BitVec.ofNat 4 i)
  simp only [State.readReg, BitVec.toNat_ofNat, Nat.mod_eq_of_lt (show i < 2 ^ 4 from hi)] at this
  exact this

end Sys2Proof.Machine
end

