-- ==== Sys2Proof/Laws/Exec.lean ====
section
/-! SUPPORT. One lemma for each shared operation and each meaning that says everything it does, and the inversion of the
step function. Later proofs cite these and do not unfold the definitions. -/

namespace Sys2Proof.Machine

/-! ## Shared operations -/

theorem State.memRead_eq (s : State) (a : Addr) :
    s.memRead a = (s.progByte a, s.record (.memRead a (s.progByte a))) := rfl

theorem State.fetchByte_eq (s : State) :
    s.fetchByte = (s.progByte s.pc, (s.record (.memRead s.pc (s.progByte s.pc))).setPc (s.pc + 1)) := rfl

theorem State.pop_eq (s : State) : s.pop = (s.slot (s.sp + 2), { s with sp := s.sp + 2 }) := rfl

theorem State.dataRead_eq (s : State) :
    s.dataRead = (s.dataAnswer, { s with dataIn := s.dataIn.tail, trace := s.trace ++ [.dataRead s.dataAnswer] }) := rfl

theorem State.statusRead_eq (s : State) (n : ChannelIdx) :
    s.statusRead n = (s.statusAnswer n,
      { s with statusIn := s.statusIn.tail, trace := s.trace ++ [.statusRead n (s.statusAnswer n)] }) := rfl

theorem State.testPin_eq (s : State) :
    s.testPin = (s.pinAnswer, { s with pinIn := s.pinIn.tail, trace := s.trace ++ [.testPin s.pinAnswer] }) := rfl

/-- The answer is the head of the given answers where there is one: whatever that value is. -/
theorem State.dataAnswer_of_cons (s : State) (m : Nibble) (ms : List Nibble) (h : s.dataIn = m :: ms) :
    s.dataAnswer = m := by
  simp [State.dataAnswer, h]

theorem State.statusAnswer_of_cons (s : State) (n : ChannelIdx) (m : Nibble) (ms : List Nibble)
    (h : s.statusIn = m :: ms) : s.statusAnswer n = m := by
  simp [State.statusAnswer, h]

theorem State.pinAnswer_of_cons (s : State) (b : Bool) (bs : List Bool) (h : s.pinIn = b :: bs) :
    s.pinAnswer = b := by
  simp [State.pinAnswer, h]

/-! ## The register pair -/

theorem toNat_evenReg (p : PairIdx) : (evenReg p).toNat = 2 * p.toNat := by
  revert p; decide

theorem toNat_oddReg (p : PairIdx) : (oddReg p).toNat = 2 * p.toNat + 1 := by
  revert p; decide

theorem evenReg_ne_oddReg (p : PairIdx) : evenReg p ≠ oddReg p := by
  revert p; decide

@[simp] theorem State.readReg_pairWrite_odd (s : State) (p : PairIdx) (v : Byte) :
    (s.pairWrite p v).readReg (oddReg p) = pairHigh v := by
  simp [State.pairWrite]

@[simp] theorem State.readReg_pairWrite_even (s : State) (p : PairIdx) (v : Byte) :
    (s.pairWrite p v).readReg (evenReg p) = pairLow v := by
  simp [State.pairWrite, State.readReg_writeReg, evenReg_ne_oddReg]

theorem State.readReg_pairWrite_of_ne (s : State) (p : PairIdx) (v : Byte) {q : Nibble} (he : q ≠ evenReg p)
    (ho : q ≠ oddReg p) : (s.pairWrite p v).readReg q = s.readReg q := by
  simp [State.pairWrite, State.readReg_writeReg, he, ho]

/-! ## The execution engine -/

/-- JCN with condition bit 1 set: the pin is sampled once, and its answer enters the condition. -/
theorem execJcn_of_asksPin {c : Nibble} (h : c.getLsbD 1 = true) (a : Byte) (s : State) :
    exec (.jcn c a) s = .next { s with
      pc := if jcnCondition c s.acc s.cy s.pinAnswer then zext12 a else s.pc
      pinIn := s.pinIn.tail
      trace := s.trace ++ [.testPin s.pinAnswer] } := by
  have hp : asksPin c = true := h
  simp only [exec, execJcn, State.samplePin, hp, if_true]
  rfl

/-- JCN with condition bit 1 clear: the pin is not sampled. -/
theorem execJcn_of_not_asksPin {c : Nibble} (h : c.getLsbD 1 = false) (a : Byte) (s : State) :
    exec (.jcn c a) s = .next { s with
      pc := if jcnCondition c s.acc s.cy false then zext12 a else s.pc } := by
  have hp : asksPin c = false := h
  simp only [exec, execJcn, State.samplePin, hp, Bool.false_eq_true, if_false]
  rfl

/-- The engine is total (R76). -/
theorem exec_next (i : Instr) (s : State) : ∃ t, exec i s = .next t := by
  cases i <;> exact ⟨_, rfl⟩

/-- The engine leaves the step machine's own fields, and program storage, as they are (R45, R76). -/
theorem exec_control {i : Instr} {s t : State} (h : exec i s = .next t) :
    t.phase = s.phase ∧ t.latch = s.latch ∧ t.icount = s.icount ∧ t.ccount = s.ccount ∧ t.prog = s.prog := by
  cases i
  case jcn c a =>
    cases hc : c.getLsbD 1
    · rw [execJcn_of_not_asksPin hc] at h; cases h; exact ⟨rfl, rfl, rfl, rfl, rfl⟩
    · rw [execJcn_of_asksPin hc] at h; cases h; exact ⟨rfl, rfl, rfl, rfl, rfl⟩
  all_goals (cases h; exact ⟨rfl, rfl, rfl, rfl, rfl⟩)

/-! ## The step -/

/-- A step in phase FETCH. -/
theorem step_of_fetch {s : State} (h : s.phase = .fetch) : step s = .next (fetchPhase s.countCycle) := by
  simp [step, h]

/-- A step in phase EXECUTE with a pending instruction whose meaning answers a next state. -/
theorem step_of_execute {s t : State} {i : Instr} (h : s.phase = .execute) (hl : s.latch = some i)
    (ht : exec i s.countCycle = .next t) : step s = .next t.retire := by
  simp [step, executePhase, h, hl, ht]

/-- A step in phase EXECUTE with an empty latch, the state R22 rules out. -/
theorem step_of_empty {s : State} (h : s.phase = .execute) (hl : s.latch = none) : step s = .fault .emptyLatch := by
  simp [step, executePhase, h, hl]

/-- Everything a step that answers a next state can have done. -/
theorem step_next_cases {s t : State} (h : step s = .next t) :
    (s.phase = .fetch ∧ t = fetchPhase s.countCycle) ∨
    ∃ i u, s.phase = .execute ∧ s.latch = some i ∧ exec i s.countCycle = .next u ∧ t = u.retire := by
  cases hp : s.phase with
  | fetch =>
    rw [step_of_fetch hp] at h
    exact .inl ⟨rfl, (Host.Outcome.next.inj h).symm⟩
  | execute =>
    cases hl : s.latch with
    | none => rw [step_of_empty hp hl] at h; cases h
    | some i =>
      cases he : exec i s.countCycle with
      | next u =>
        rw [step_of_execute hp hl he] at h
        exact .inr ⟨i, u, rfl, rfl, he, (Host.Outcome.next.inj h).symm⟩
      | fault r => simp [step, executePhase, hp, hl, he] at h
      | refused r => simp [step, executePhase, hp, hl, he] at h

/-- The FETCH phase on a one-byte instruction. -/
theorem fetchPhase_one {s : State} (h : isTwoByte (s.progByte s.pc) = false) :
    fetchPhase s =
      ((s.record (.memRead s.pc (s.progByte s.pc))).setPc (s.pc + 1)).latchInstr (decode (s.progByte s.pc) 0x00#8) := by
  simp [fetchPhase, State.fetchByte_eq, h]

/-- The FETCH phase on a two-byte instruction. -/
theorem fetchPhase_two {s : State} (h : isTwoByte (s.progByte s.pc) = true) :
    fetchPhase s =
      ((((s.record (.memRead s.pc (s.progByte s.pc))).setPc (s.pc + 1)).record
          (.memRead (s.pc + 1) (s.progByte (s.pc + 1)))).setPc (s.pc + 1 + 1)).latchInstr
        (decode (s.progByte s.pc) (s.progByte (s.pc + 1))) := by
  simp [fetchPhase, State.fetchByte_eq, h]

end Sys2Proof.Machine
end

