-- ==== Sys2Proof/Laws/PerInstr.lean ====
section
/-! SUPPORT. Statements made per instruction. `EncodedLength`: the bytes of an instruction are as many as its own first byte
announces (spec/30_encoding.md R53, R60). -/

namespace Sys2Proof.Laws

/-- The encoding of an instruction opens with a byte that announces its length. -/
def EncodedLength.Statement (i : Instr) : Prop :=
  ∃ op rest, encode i = op :: rest ∧ (encode i).length = instrLength op

namespace EncodedLength

/-- The length a first byte announces, for the opcode classes that carry a register, condition or data nibble. -/
theorem length_of_nibble (n : Nibble) :
    instrLength (0x1#4 ++ n) = 2 ∧ instrLength (0x4#4 ++ n) = 2 ∧ instrLength (0x5#4 ++ n) = 2 ∧
    instrLength (0x6#4 ++ n) = 1 ∧ instrLength (0x7#4 ++ n) = 2 ∧ instrLength (0x8#4 ++ n) = 1 ∧
    instrLength (0x9#4 ++ n) = 1 ∧ instrLength (0xA#4 ++ n) = 1 ∧ instrLength (0xB#4 ++ n) = 1 ∧
    instrLength (0xC#4 ++ n) = 1 ∧ instrLength (0xD#4 ++ n) = 1 := by
  revert n; decide

/-- The same for the classes that carry a pair index. -/
theorem length_of_pair (p : PairIdx) :
    instrLength (0x2#4 ++ p ++ 0#1) = 2 ∧ instrLength (0x2#4 ++ p ++ 1#1) = 1 ∧
    instrLength (0x3#4 ++ p ++ 0#1) = 1 ∧ instrLength (0x3#4 ++ p ++ 1#1) = 1 := by
  revert p; decide

theorem nop : Statement .nop := ⟨_, _, rfl, by decide⟩
theorem jcn (c : Nibble) (a : Byte) : Statement (.jcn c a) := ⟨_, _, rfl, by simp [encode, length_of_nibble c]⟩
theorem fim (p : PairIdx) (d : Byte) : Statement (.fim p d) := ⟨_, _, rfl, by simp [encode, length_of_pair p]⟩
theorem src (p : PairIdx) : Statement (.src p) := ⟨_, _, rfl, by simp [encode, length_of_pair p]⟩
theorem fin (p : PairIdx) : Statement (.fin p) := ⟨_, _, rfl, by simp [encode, length_of_pair p]⟩
theorem jin (p : PairIdx) : Statement (.jin p) := ⟨_, _, rfl, by simp [encode, length_of_pair p]⟩
theorem jun (t : Addr) : Statement (.jun t) := ⟨_, _, rfl, by simp [encode, length_of_nibble (t.extractLsb' 8 4)]⟩
theorem jms (t : Addr) : Statement (.jms t) := ⟨_, _, rfl, by simp [encode, length_of_nibble (t.extractLsb' 8 4)]⟩
theorem inc (r : Nibble) : Statement (.inc r) := ⟨_, _, rfl, by simp [encode, length_of_nibble r]⟩
theorem isz (r : Nibble) (a : Byte) : Statement (.isz r a) := ⟨_, _, rfl, by simp [encode, length_of_nibble r]⟩
theorem add (r : Nibble) : Statement (.add r) := ⟨_, _, rfl, by simp [encode, length_of_nibble r]⟩
theorem sub (r : Nibble) : Statement (.sub r) := ⟨_, _, rfl, by simp [encode, length_of_nibble r]⟩
theorem ld (r : Nibble) : Statement (.ld r) := ⟨_, _, rfl, by simp [encode, length_of_nibble r]⟩
theorem xch (r : Nibble) : Statement (.xch r) := ⟨_, _, rfl, by simp [encode, length_of_nibble r]⟩
theorem bbl (d : Nibble) : Statement (.bbl d) := ⟨_, _, rfl, by simp [encode, length_of_nibble d]⟩
theorem ldm (d : Nibble) : Statement (.ldm d) := ⟨_, _, rfl, by simp [encode, length_of_nibble d]⟩
theorem wrm : Statement .wrm := ⟨_, _, rfl, by decide⟩
theorem wmp : Statement .wmp := ⟨_, _, rfl, by decide⟩
theorem wrr : Statement .wrr := ⟨_, _, rfl, by decide⟩
theorem wr0 : Statement .wr0 := ⟨_, _, rfl, by decide⟩
theorem wr1 : Statement .wr1 := ⟨_, _, rfl, by decide⟩
theorem wr2 : Statement .wr2 := ⟨_, _, rfl, by decide⟩
theorem wr3 : Statement .wr3 := ⟨_, _, rfl, by decide⟩
theorem sbm : Statement .sbm := ⟨_, _, rfl, by decide⟩
theorem rdm : Statement .rdm := ⟨_, _, rfl, by decide⟩
theorem rdr : Statement .rdr := ⟨_, _, rfl, by decide⟩
theorem adm : Statement .adm := ⟨_, _, rfl, by decide⟩
theorem rd0 : Statement .rd0 := ⟨_, _, rfl, by decide⟩
theorem rd1 : Statement .rd1 := ⟨_, _, rfl, by decide⟩
theorem rd2 : Statement .rd2 := ⟨_, _, rfl, by decide⟩
theorem rd3 : Statement .rd3 := ⟨_, _, rfl, by decide⟩
theorem clb : Statement .clb := ⟨_, _, rfl, by decide⟩
theorem clc : Statement .clc := ⟨_, _, rfl, by decide⟩
theorem iac : Statement .iac := ⟨_, _, rfl, by decide⟩
theorem cmc : Statement .cmc := ⟨_, _, rfl, by decide⟩
theorem cma : Statement .cma := ⟨_, _, rfl, by decide⟩
theorem ral : Statement .ral := ⟨_, _, rfl, by decide⟩
theorem rar : Statement .rar := ⟨_, _, rfl, by decide⟩
theorem tcc : Statement .tcc := ⟨_, _, rfl, by decide⟩
theorem dac : Statement .dac := ⟨_, _, rfl, by decide⟩
theorem tcs : Statement .tcs := ⟨_, _, rfl, by decide⟩
theorem stc : Statement .stc := ⟨_, _, rfl, by decide⟩
theorem daa : Statement .daa := ⟨_, _, rfl, by decide⟩
theorem kbp : Statement .kbp := ⟨_, _, rfl, by decide⟩
theorem dcl : Statement .dcl := ⟨_, _, rfl, by decide⟩
theorem unknown : Statement .unknown := ⟨_, _, rfl, by decide⟩

end EncodedLength

end Sys2Proof.Laws
end

