-- ==== Sys2Proof/Laws/Terms.lean ====
section
/-! SUPPORT. Small lemmas about the terms of Safety.lean: runs one step at a time, what a recorded call does to the views of
the port trace, and the registers of a pair by number. -/

namespace Sys2Proof.Machine

/-! ## Runs -/

@[simp] theorem runSteps_zero (s : State) : runSteps 0 s = .next s := rfl

theorem runSteps_succ {n : Nat} {s t : State} (h : step s = .next t) : runSteps (n + 1) s = runSteps n t := by
  have h' : Sys2Proof.core.step s = .next t := h
  simp only [runSteps, Host.Core.run, h']
  rfl

@[simp] theorem runActions_nil (s : State) : runActions [] s = .next s := rfl

theorem runActions_cons {h : HostAction} {hs : List HostAction} {s t : State} (ha : act h s = .next t) :
    runActions (h :: hs) s = runActions hs t := by
  simp only [runActions, ha]

/-! ## Views of the port trace -/

theorem State.selectedAddress_record (s : State) (c : PortCall) :
    (s.record c).selectedAddress = (addressOf? c).or s.selectedAddress := by
  cases h : addressOf? c <;> simp [State.selectedAddress, h]

theorem State.selectedBank_record (s : State) (c : PortCall) :
    (s.record c).selectedBank = (bankOf? c).or s.selectedBank := by
  cases h : bankOf? c <;> simp [State.selectedBank, h]

theorem State.diagnostics_record (s : State) (c : PortCall) :
    (s.record c).diagnostics = s.diagnostics ++ (diagnosticOf? c).toList := by
  cases h : diagnosticOf? c <;> simp [State.diagnostics, h]

/-- The views depend on the trace alone. -/
theorem State.selectedAddress_congr {s t : State} (h : t.trace = s.trace) :
    t.selectedAddress = s.selectedAddress := by
  simp [State.selectedAddress, h]

theorem State.selectedBank_congr {s t : State} (h : t.trace = s.trace) : t.selectedBank = s.selectedBank := by
  simp [State.selectedBank, h]

theorem State.diagnostics_congr {s t : State} (h : t.trace = s.trace) : t.diagnostics = s.diagnostics := by
  simp [State.diagnostics, h]

/-! ## The registers of a pair -/

theorem lowReg_eq (p : PairIdx) : lowReg p = evenReg p := by
  revert p; decide

theorem highReg_eq (p : PairIdx) : highReg p = oddReg p := by
  revert p; decide

end Sys2Proof.Machine
end

