-- ==== Sys2Proof/Tests/Slice0.lean ====
section
/-! SUPPORT. The model's own tests. Every expected result comes from the spec: the encodings of spec/30_encoding.md and
spec/opcode_table.json, the vectors of spec/95_test_vectors.md (cited by their ids). At the end, for every statement of
Obligations.lean that has hypotheses, a concrete case that meets them. -/

namespace Sys2Proof.Tests

open Sys2Proof Sys2Proof.Machine

/-! ## Helpers -/

/-- What a function of the next state gives; none where there is no next state. -/
def got {α : Type} (f : State → α) : Result → Option α
  | .next t => some (f t)
  | .fault _ => none
  | .refused _ => none

/-- The reset state with another accumulator, carry and `pc`. -/
def st (acc : Nibble) (cy : Bool) (pc : Addr) : State := { State.reset with acc := acc, cy := cy, pc := pc }

/-- The reset state about to fetch at `pc`, with some bytes of program storage placed. -/
def fetching (pc : Addr) (cells : List Host.Cell) : State := { State.reset with pc := pc, prog := cells }

/-- The reset state with an instruction pending. -/
def pending (i : Instr) : State := { State.reset with phase := .execute, latch := some i, ccount := 1 }

/-- What the list decoder reads, none where it rejects. -/
def decoded (bs : List Byte) : Option (Instr × List Byte) := (decodeBytes bs).toOption

/-! ## Well-formed lines (R65, decision D23): an ill-formed line for each check -/

theorem test_wf_accepts : (RawInstr.mk .isz [15, 255]).wellFormed = true := by decide
theorem test_wf_refuses_register_16 : (RawInstr.mk .add [16]).wellFormed = false := by decide
theorem test_wf_refuses_pair_8 : (RawInstr.mk .src [8]).wellFormed = false := by decide
theorem test_wf_refuses_nibble_16 : (RawInstr.mk .ldm [16]).wellFormed = false := by decide
theorem test_wf_refuses_byte_256 : (RawInstr.mk .fim [0, 256]).wellFormed = false := by decide
theorem test_wf_refuses_address_4096 : (RawInstr.mk .jun [4096]).wellFormed = false := by decide
theorem test_wf_refuses_missing_operand : (RawInstr.mk .jcn [4]).wellFormed = false := by decide
theorem test_wf_refuses_extra_operand : (RawInstr.mk .nop [0]).wellFormed = false := by decide
theorem test_line_of_no_instruction : (RawInstr.mk .inc [16]).toInstr = none := by decide
theorem test_line_text : (Instr.fim 0 0xAB).text = "FIM 0, 171" := by decide

/-! ## Decoding: words written out from the formats of R54 and the rows of R56 to R58 -/

theorem test_decode_nop : decoded [0b00000000] = some (.nop, []) := by decide
theorem test_decode_jcn : decoded [0b00011100, 0b11111111] = some (.jcn 12 0xFF, []) := by decide
theorem test_decode_fim : decoded [0b00101110, 0b00000001] = some (.fim 7 0x01, []) := by decide
theorem test_decode_src : decoded [0b00100011] = some (.src 1, []) := by decide
theorem test_decode_fin : decoded [0b00110110] = some (.fin 3, []) := by decide
theorem test_decode_jin : decoded [0b00111111] = some (.jin 7, []) := by decide
theorem test_decode_jun : decoded [0b01000010, 0b00110100] = some (.jun 0x234, []) := by decide
theorem test_decode_jms : decoded [0b01010001, 0b00100011] = some (.jms 0x123, []) := by decide
theorem test_decode_inc : decoded [0b01100101] = some (.inc 5, []) := by decide
theorem test_decode_isz : decoded [0b01111001, 0b11111110] = some (.isz 9 0xFE, []) := by decide
theorem test_decode_add : decoded [0b10000001] = some (.add 1, []) := by decide
theorem test_decode_sub : decoded [0b10010000] = some (.sub 0, []) := by decide
theorem test_decode_ld : decoded [0b10100111] = some (.ld 7, []) := by decide
theorem test_decode_xch : decoded [0b10111111] = some (.xch 15, []) := by decide
theorem test_decode_bbl : decoded [0b11000011] = some (.bbl 3, []) := by decide
theorem test_decode_ldm : decoded [0b11010101] = some (.ldm 5, []) := by decide

/-- Row 0xE, each byte in turn. -/
theorem test_decode_row_e :
    [0b11100000, 0b11100001, 0b11100010, 0b11100011, 0b11100100, 0b11100101, 0b11100110, 0b11100111].map (decode · 0x00) =
      [.wrm, .wmp, .wrr, .unknown, .wr0, .wr1, .wr2, .wr3] ∧
    [0b11101000, 0b11101001, 0b11101010, 0b11101011, 0b11101100, 0b11101101, 0b11101110, 0b11101111].map (decode · 0x00) =
      [.sbm, .rdm, .rdr, .adm, .rd0, .rd1, .rd2, .rd3] := by decide

/-- Row 0xF, each byte in turn. -/
theorem test_decode_row_f :
    [0b11110000, 0b11110001, 0b11110010, 0b11110011, 0b11110100, 0b11110101, 0b11110110, 0b11110111].map (decode · 0x00) =
      [.clb, .clc, .iac, .cmc, .cma, .ral, .rar, .tcc] ∧
    [0b11111000, 0b11111001, 0b11111010, 0b11111011, 0b11111100, 0b11111101, 0b11111110, 0b11111111].map (decode · 0x00) =
      [.dac, .tcs, .stc, .daa, .kbp, .dcl, .unknown, .unknown] := by decide

/-- V-UNK3: a byte of row 0x0 other than 0x00 is a one-byte UNKNOWN. -/
theorem test_decode_unknown_leaves_the_rest : decoded [0x05, 0xFF] = some (.unknown, [0xFF]) := by decide
theorem test_decode_rejects_empty : decodeBytes [] = .error .noFirstByte := rfl
theorem test_decode_rejects_truncated : decodeBytes [0x42] = .error .noSecondByte := rfl
/-- The source's own bytes (Scenario C and E). -/
theorem test_encode_source_bytes :
    encode (.ldm 5) = [0xD5] ∧ encode (.xch 1) = [0xB1] ∧ encode (.ldm 3) = [0xD3] ∧ encode (.add 1) = [0x81] ∧
    encode (.xch 2) = [0xB2] ∧ encode .unknown = [0xE3] := by decide
theorem test_encode_two_bytes :
    encode (.fim 0 0xAB) = [0x20, 0xAB] ∧ encode (.jms 0x300) = [0x53, 0x00] ∧ encode (.jcn 15 0xFF) = [0x1F, 0xFF] := by
  decide

/-! ## The opcode table (spec/opcode_table.json): a row is its match, its mask, its mnemonic and its length -/

structure Row where
  word : Byte
  mask : Byte
  mnemonic : Mnemonic
  length : Nat

def tableLow : List Row :=
  [⟨0x00, 0xFF, .nop, 1⟩, ⟨0x10, 0xF0, .jcn, 2⟩, ⟨0x20, 0xF1, .fim, 2⟩, ⟨0x21, 0xF1, .src, 1⟩, ⟨0x30, 0xF1, .fin, 1⟩,
   ⟨0x31, 0xF1, .jin, 1⟩, ⟨0x40, 0xF0, .jun, 2⟩, ⟨0x50, 0xF0, .jms, 2⟩, ⟨0x60, 0xF0, .inc, 1⟩, ⟨0x70, 0xF0, .isz, 2⟩] ++
  [⟨0x80, 0xF0, .add, 1⟩, ⟨0x90, 0xF0, .sub, 1⟩, ⟨0xA0, 0xF0, .ld, 1⟩, ⟨0xB0, 0xF0, .xch, 1⟩, ⟨0xC0, 0xF0, .bbl, 1⟩,
   ⟨0xD0, 0xF0, .ldm, 1⟩]

def tableHigh : List Row :=
  [⟨0xE0, 0xFF, .wrm, 1⟩, ⟨0xE1, 0xFF, .wmp, 1⟩, ⟨0xE2, 0xFF, .wrr, 1⟩, ⟨0xE4, 0xFF, .wr0, 1⟩, ⟨0xE5, 0xFF, .wr1, 1⟩,
   ⟨0xE6, 0xFF, .wr2, 1⟩, ⟨0xE7, 0xFF, .wr3, 1⟩, ⟨0xE8, 0xFF, .sbm, 1⟩, ⟨0xE9, 0xFF, .rdm, 1⟩, ⟨0xEA, 0xFF, .rdr, 1⟩] ++
  [⟨0xEB, 0xFF, .adm, 1⟩, ⟨0xEC, 0xFF, .rd0, 1⟩, ⟨0xED, 0xFF, .rd1, 1⟩, ⟨0xEE, 0xFF, .rd2, 1⟩, ⟨0xEF, 0xFF, .rd3, 1⟩,
   ⟨0xF0, 0xFF, .clb, 1⟩, ⟨0xF1, 0xFF, .clc, 1⟩, ⟨0xF2, 0xFF, .iac, 1⟩, ⟨0xF3, 0xFF, .cmc, 1⟩, ⟨0xF4, 0xFF, .cma, 1⟩] ++
  [⟨0xF5, 0xFF, .ral, 1⟩, ⟨0xF6, 0xFF, .rar, 1⟩, ⟨0xF7, 0xFF, .tcc, 1⟩, ⟨0xF8, 0xFF, .dac, 1⟩, ⟨0xF9, 0xFF, .tcs, 1⟩,
   ⟨0xFA, 0xFF, .stc, 1⟩, ⟨0xFB, 0xFF, .daa, 1⟩, ⟨0xFC, 0xFF, .kbp, 1⟩, ⟨0xFD, 0xFF, .dcl, 1⟩] ++
  [⟨0x01, 0xFF, .unknown, 1⟩, ⟨0x02, 0xFE, .unknown, 1⟩, ⟨0x04, 0xFC, .unknown, 1⟩, ⟨0x08, 0xF8, .unknown, 1⟩,
   ⟨0xE3, 0xFF, .unknown, 1⟩, ⟨0xFE, 0xFE, .unknown, 1⟩]

/-- Exactly one row matches a byte, and it names the instruction decoded from the byte and its length. -/
def rowAgrees (op : Byte) : Bool :=
  match (tableLow ++ tableHigh).filter (fun r => op &&& r.mask == r.word) with
  | [r] => decide ((decode op 0x00).mnemonic = r.mnemonic) && decide (instrLength op = r.length)
  | _ => false

theorem test_opcode_table_low : ∀ n < 128, rowAgrees (BitVec.ofNat 8 n) = true := by decide
theorem test_opcode_table_high : ∀ n < 128, rowAgrees (BitVec.ofNat 8 (128 + n)) = true := by decide

/-! ## One instruction (95_test_vectors.md section 2.1): NOP and control transfer -/

theorem test_nop : got (fun t => (t.acc, t.cy, t.pc)) (exec .nop (st 9 true 0x011)) = some (9, true, 0x011) := by decide
theorem test_jcn_zero : got State.pc (exec (.jcn 4 0x40) (st 0 true 0x237)) = some 0x040 := by decide
theorem test_jcn_pin : got (fun t => (t.pc, t.trace)) (exec (.jcn 2 0x40) { st 3 true 0x237 with pinIn := [false] }) =
    some (0x237, [.testPin false]) := by decide
theorem test_jin_leaves_page : got State.pc (exec (.jin 1) (((st 0 false 0x7A1).writeReg 2 5).writeReg 3 2)) =
    some 0x025 := by decide
theorem test_jin_top : got State.pc (exec (.jin 7) (((st 0 false 0x001).writeReg 14 15).writeReg 15 15)) =
    some 0x0FF := by decide
theorem test_jun : got State.pc (exec (.jun 0xFFF) (st 0 false 0x802)) = some 0xFFF := by decide
theorem test_jms : got (fun t => (t.slot 0, t.sp, t.pc)) (exec (.jms 0x100) (st 7 true 0x006)) =
    some (0x006, 1, 0x100) := by decide
theorem test_jms_wraps : got (fun t => (t.slot 2, t.sp)) (exec (.jms 0x300) { st 0 false 0x105 with sp := 2 }) =
    some (0x105, 0) := by decide
theorem test_isz_jumps : got (fun t => (t.readReg 9, t.pc)) (exec (.isz 9 0xFE) ((st 0 false 0x905).writeReg 9 15)) =
    some (0, 0x0FE) := by decide
theorem test_isz_falls_through : got (fun t => (t.readReg 0, t.pc)) (exec (.isz 0 0x07) ((st 0 false 5).writeReg 0 14)) =
    some (15, 0x005) := by decide
theorem test_bbl : got (fun t => (t.sp, t.pc, t.acc))
    (exec (.bbl 3) { st 0 false 0x102 with stack := #v[0x006, 0, 0], sp := 1 }) = some (0, 0x006, 3) := by decide
theorem test_bbl_underflow : got (fun t => (t.sp, t.pc, t.acc))
    (exec (.bbl 0) { st 9 false 0x044 with stack := #v[0x111, 0x222, 0x333] }) = some (2, 0x333, 0) := by decide

/-! ## Section 2.2: register and immediate -/

theorem test_fim : got (fun t => (t.readReg 0, t.readReg 1)) (exec (.fim 0 0xAB) State.reset) = some (0xB, 0xA) := by decide
theorem test_fin : got (fun t => (t.readReg 6, t.readReg 7)) (exec (.fin 3)
    (((fetching 0x301 [(0x014, 0x9C), (0x314, 0x55)]).writeReg 0 4).writeReg 1 1)) = some (0xC, 0x9) := by decide
theorem test_fin_own_pair : got (fun t => (t.readReg 0, t.readReg 1)) (exec (.fin 0)
    (((fetching 0x001 [(0x0FF, 0x12)]).writeReg 0 15).writeReg 1 15)) = some (2, 1) := by decide
theorem test_inc_wraps : got (fun t => (t.readReg 5, t.cy)) (exec (.inc 5) (State.reset.writeReg 5 15)) =
    some (0, false) := by decide
theorem test_add_ignores_carry : got (fun t => (t.acc, t.cy)) (exec (.add 1) ((st 5 true 0).writeReg 1 3)) =
    some (8, false) := by decide
theorem test_add_wraps : got (fun t => (t.acc, t.cy)) (exec (.add 2) ((st 15 false 0).writeReg 2 15)) =
    some (14, true) := by decide
theorem test_sub_borrow_in : got (fun t => (t.acc, t.cy)) (exec (.sub 0) ((st 5 false 0).writeReg 0 3)) =
    some (1, true) := by decide
theorem test_sub_negative : got (fun t => (t.acc, t.cy)) (exec (.sub 0) ((st 3 true 0).writeReg 0 5)) =
    some (14, false) := by decide
theorem test_ld : got (fun t => (t.acc, t.readReg 7)) (exec (.ld 7) ((st 1 true 0).writeReg 7 9)) = some (9, 9) := by decide
theorem test_xch : got (fun t => (t.acc, t.readReg 15)) (exec (.xch 15) ((st 10 true 0).writeReg 15 5)) =
    some (5, 10) := by decide
theorem test_ldm : got (fun t => (t.acc, t.cy)) (exec (.ldm 0) (st 9 true 0)) = some (0, true) := by decide

/-! ## Section 2.3: data memory and IO -/

theorem test_src : got State.trace (exec (.src 1) ((State.reset.writeReg 2 5).writeReg 3 2)) =
    some [.dataSetAddress 0x25] := by decide
theorem test_dcl : got State.trace (exec .dcl (st 6 false 0)) = some [.bankSelect 2] := by decide
theorem test_wrm : got State.trace (exec .wrm (st 3 false 0)) = some [.dataWrite 3] := by decide
theorem test_rdm : got (fun t => (t.acc, t.cy)) (exec .rdm { st 0 true 0 with dataIn := [9] }) = some (9, true) := by decide
theorem test_adm : got (fun t => (t.acc, t.cy)) (exec .adm { st 2 true 0 with dataIn := [3] }) = some (5, false) := by decide
theorem test_sbm : got (fun t => (t.acc, t.cy)) (exec .sbm { st 6 false 0 with dataIn := [4] }) = some (1, true) := by decide
theorem test_sbm_negative : got (fun t => (t.acc, t.cy)) (exec .sbm { st 4 true 0 with dataIn := [6] }) =
    some (14, false) := by decide
theorem test_wmp : got State.trace (exec .wmp (st 10 false 0)) = some [.ioWriteOutput 0 10] := by decide
theorem test_wrr : got (fun t => (t.acc, t.trace)) (exec .wrr (st 10 true 0)) = some (10, []) := by decide
theorem test_rdr : got (fun t => (t.acc, t.trace)) (exec .rdr (st 7 false 0)) = some (7, []) := by decide
theorem test_wr0 : got State.trace (exec .wr0 (st 1 false 0)) = some [.statusWrite 0 1] := by decide
theorem test_wr1 : got State.trace (exec .wr1 (st 2 false 0)) = some [.statusWrite 1 2] := by decide
theorem test_wr2 : got State.trace (exec .wr2 (st 4 false 0)) = some [.statusWrite 2 4] := by decide
theorem test_wr3 : got State.trace (exec .wr3 (st 8 false 0)) = some [.statusWrite 3 8] := by decide
theorem test_rd0 : got (fun t => (t.acc, t.trace)) (exec .rd0 { State.reset with statusIn := [15] }) =
    some (15, [.statusRead 0 15]) := by decide
theorem test_rd1 : got (fun t => (t.acc, t.trace)) (exec .rd1 { State.reset with statusIn := [1] }) =
    some (1, [.statusRead 1 1]) := by decide
theorem test_rd2 : got (fun t => (t.acc, t.cy)) (exec .rd2 { st 0 true 0 with statusIn := [2] }) = some (2, true) := by decide
theorem test_rd3 : got (fun t => (t.acc, t.trace)) (exec .rd3 { State.reset with statusIn := [3] }) =
    some (3, [.statusRead 3 3]) := by decide

/-! ## Section 2.4: accumulator and carry -/

theorem test_clb : got (fun t => (t.acc, t.cy)) (exec .clb (st 9 true 0)) = some (0, false) := by decide
theorem test_clc : got (fun t => (t.acc, t.cy)) (exec .clc (st 9 true 0)) = some (9, false) := by decide
theorem test_iac_wraps : got (fun t => (t.acc, t.cy)) (exec .iac (st 15 false 0)) = some (0, true) := by decide
theorem test_iac_clears_carry : got (fun t => (t.acc, t.cy)) (exec .iac (st 4 true 0)) = some (5, false) := by decide
theorem test_cmc : got (fun t => (t.acc, t.cy)) (exec .cmc (st 4 true 0)) = some (4, false) := by decide
theorem test_cma : got (fun t => (t.acc, t.cy)) (exec .cma (st 5 true 0)) = some (10, true) := by decide
theorem test_ral : got (fun t => (t.acc, t.cy)) (exec .ral (st 9 false 0)) = some (2, true) := by decide
theorem test_ral_carry_in : got (fun t => (t.acc, t.cy)) (exec .ral (st 2 true 0)) = some (5, false) := by decide
theorem test_rar : got (fun t => (t.acc, t.cy)) (exec .rar (st 5 false 0)) = some (2, true) := by decide
theorem test_rar_carry_in : got (fun t => (t.acc, t.cy)) (exec .rar (st 0 true 0)) = some (8, false) := by decide
theorem test_tcc : got (fun t => (t.acc, t.cy)) (exec .tcc (st 9 true 0)) = some (1, false) := by decide
theorem test_dac_wraps : got (fun t => (t.acc, t.cy)) (exec .dac (st 0 true 0)) = some (15, false) := by decide
theorem test_dac_to_zero : got (fun t => (t.acc, t.cy)) (exec .dac (st 1 false 0)) = some (0, true) := by decide
theorem test_tcs : got (fun t => (t.acc, t.cy)) (exec .tcs (st 3 false 0)) = some (9, false) := by decide
theorem test_tcs_carry : got (fun t => (t.acc, t.cy)) (exec .tcs (st 3 true 0)) = some (10, false) := by decide
theorem test_stc : got (fun t => (t.acc, t.cy)) (exec .stc (st 3 false 0)) = some (3, true) := by decide
theorem test_daa_above_nine : got (fun t => (t.acc, t.cy)) (exec .daa (st 12 false 0)) = some (2, true) := by decide
theorem test_daa_carry : got (fun t => (t.acc, t.cy)) (exec .daa (st 3 true 0)) = some (9, true) := by decide
theorem test_kbp_one_hot : got State.acc (exec .kbp (st 8 false 0)) = some 3 := by decide
theorem test_kbp_zero : got State.acc (exec .kbp (st 0 false 0)) = some 15 := by decide
theorem test_unknown : got (fun t => (t.acc, t.pc, t.trace)) (exec .unknown (st 9 true 0x00D)) =
    some (9, 0x00D, [.diag .unknownOpcode]) := by decide

/-! ## The step machine (section 2.6) -/

/-- V-STEP1. -/
theorem test_step_fetch : got (fun t => (t.pc, t.phase, t.latch, t.acc, t.ccount, t.icount))
    (step (fetching 0 [(0, 0xD5)])) = some (0x001, .execute, some (.ldm 5), 0, 1, 0) := by decide
/-- V-STEP2. -/
theorem test_step_execute : got (fun t => (t.acc, t.phase, t.latch, t.ccount, t.icount))
    (step (pending (.ldm 5))) = some (5, .fetch, none, 2, 1) := by decide
/-- V-STEP3. -/
theorem test_step_fetch_two : got (fun t => (t.pc, t.latch, t.trace)) (step (fetching 0 [(0, 0x42), (1, 0x34)])) =
    some (0x002, some (.jun 0x234), [.memRead 0x000 0x42, .memRead 0x001 0x34]) := by decide
/-- V-WRAP1. -/
theorem test_step_wrap : got (fun t => (t.pc, t.latch)) (step (fetching 0xFFF [(0xFFF, 0x00)])) =
    some (0x000, some .nop) := by decide
/-- V-WRAP2. -/
theorem test_step_wrap_two : got (fun t => (t.pc, t.latch)) (step (fetching 0xFFF [(0, 0x34), (0xFFF, 0x42)])) =
    some (0x001, some (.jun 0x234)) := by decide
/-- V-UNK2: the FETCH step reports nothing. -/
theorem test_step_unknown_fetch : got (fun t => (t.pc, t.latch, t.diagnostics)) (step (fetching 0x00C [(0x00C, 0xE3)])) =
    some (0x00D, some .unknown, []) := by decide
theorem test_step_unknown_execute : got (fun t => (t.icount, t.diagnostics)) (step (pending .unknown)) =
    some (1, [.unknownOpcode]) := by decide
/-- V-LEN: the second byte is no opcode. -/
theorem test_step_second_byte : got (fun t => (t.pc, t.latch)) (step (fetching 0 [(0, 0x10), (1, 0xE3)])) =
    some (0x002, some (.jcn 0 0xE3)) := by decide
/-- V-RST1. -/
theorem test_reset_discards : act .reset { pending (.ldm 5) with acc := 9, ccount := 7 } = .next State.reset := rfl
/-- V-RST2: a core reset leaves the trace, and so the selection, alone. -/
theorem test_reset_keeps_selection : got State.selectedAddress
    (act .reset { State.reset with trace := [.dataSetAddress 0x25, .bankSelect 2] }) = some (some 0x25) := by decide
/-- V-INJ. -/
theorem test_inject : got (fun t => (t.slot 0, t.pc, t.phase, t.icount)) (act (.execute (.jms 0x123)) State.reset) =
    some (0x000, 0x123, .fetch, 0) := by decide
/-- The placed word runs in the very next step. -/
theorem test_placed_word : got State.acc (step (State.reset.withFetchWord 8 0xD5)) = some 5 := by decide
theorem test_placed_word_two : got State.pc (step (State.reset.withFetchWord 16 0x3442)) = some 0x234 := by decide
theorem test_table_word : decodeTableWord 16 0x3442 = some (.jun 0x234) := by decide
/-- The state R22 rules out. -/
theorem test_empty_latch : step { State.reset with phase := .execute } = .fault .emptyLatch := rfl
/-- Placed bytes are kept in order, one cell an address. -/
theorem test_load_canonical : ((((State.reset.load 5 1).load 2 7).load 5 9).prog) = [(2, 7), (5, 9)] := by decide

/-! ## Witnesses: for every statement that has hypotheses, a case that meets them all -/

theorem pending_latchOk (i : Instr) : (pending i).LatchOk := by simp [State.LatchOk, pending]

theorem fetching_latchOk (pc : Addr) (cells : List Host.Cell) : (fetching pc cells).LatchOk := by
  simp [State.LatchOk, fetching, State.reset]

theorem test_witness_DecodedBytesAreTheEncoding :
    decoded [0x51, 0x23, 0x00] = some (.jms 0x123, [0x00]) ∧ Instr.jms 0x123 ≠ .unknown := by decide

theorem test_witness_TwoByteInstructionsAreTheFive :
    decoded [0x20, 0xAB] = some (.fim 0 0xAB, []) ∧ decoded [0x21, 0xAB] = some (.src 0, [0xAB]) ∧
    decoded [0xE3, 0xAB] = some (.unknown, [0xAB]) := by decide

/-- Both sides of the equivalence, at the edges of the four ranges. -/
theorem test_witness_UnmappedBytesDecodeToUnknown :
    decode 0x00 0x00 ≠ .unknown ∧ decode 0x01 0x00 = .unknown ∧ decode 0x0F 0xFF = .unknown ∧ decode 0x10 0x00 ≠ .unknown ∧
    decode 0xE2 0x00 ≠ .unknown ∧ decode 0xE3 0x00 = .unknown ∧ decode 0xE4 0x00 ≠ .unknown ∧
    decode 0xFD 0x00 ≠ .unknown ∧ decode 0xFE 0x00 = .unknown ∧ decode 0xFF 0x00 = .unknown := by decide

/-- Both sides of the equivalence: a line that names an instruction, and one that does not. -/
theorem test_witness_LineNamesTheInstructionOfItsOperands :
    (RawInstr.mk .jun [4095]).toInstr = some (.jun 0xFFF) ∧ (RawInstr.mk .jun [4095]) = (Instr.jun 0xFFF).raw ∧
    (RawInstr.mk .jun [4096]).toInstr = none := by decide

theorem test_witness_FetchStepLatchesTheInstructionAtPc :
    (fetching 0 [(0, 0xD5)]).phase = .fetch ∧ (fetching 0xFFF [(0, 0x34), (0xFFF, 0x42)]).phase = .fetch := by decide

theorem test_witness_ExecuteStepRunsThePendingInstruction :
    (pending (.add 1)).phase = .execute ∧ (pending (.add 1)).latch = some (.add 1) := by decide

theorem test_witness_StepPairRunsTheDecodedInstruction :
    (fetching 0xFFF [(0, 0x34), (0xFFF, 0x42)]).phase = .fetch ∧
    decoded [(fetching 0xFFF [(0, 0x34), (0xFFF, 0x42)]).progByte 0xFFF,
      (fetching 0xFFF [(0, 0x34), (0xFFF, 0x42)]).progByte (0xFFF + 1)] = some (.jun 0x234, []) ∧
    decoded [(fetching 0 [(0, 0xD5), (1, 0xB1)]).progByte 0, (fetching 0 [(0, 0xD5), (1, 0xB1)]).progByte (0 + 1)] =
      some (.ldm 5, [0xB1]) := by decide

theorem test_witness_PlacedWordRunsInTheNextStep :
    decodeTableWord 8 0xD5 = some (.ldm 5) ∧ decodeTableWord 16 0xFF4F = some (.jun 0xFFF) := by decide

theorem test_witness_PhaseAlternatesAndNoInstructionTouchesIt :
    State.reset.LatchOk ∧ (pending .nop).LatchOk := ⟨fetching_latchOk 0 [], pending_latchOk .nop⟩

/-- Both phases, with a byte placed. -/
theorem test_witness_StepKeepsTheInvariant :
    ((fetching 0 [(0, 0xD5)]).Inv ∧ got (fun _ => ()) (step (fetching 0 [(0, 0xD5)])) = some ()) ∧
    ((pending .nop).Inv ∧ got (fun _ => ()) (step (pending .nop)) = some ()) :=
  ⟨⟨⟨fetching_latchOk 0 _, by unfold State.ProgOk; decide⟩, by decide⟩,
   ⟨⟨pending_latchOk .nop, by unfold State.ProgOk; decide⟩, by decide⟩⟩

theorem test_witness_StepKeepsTheCountersInvariant :
    (fetching 0 [(0, 0xD5)]).CountersOk ∧ (pending .nop).CountersOk ∧
    got (fun _ => ()) (step (pending .nop)) = some () := by
  unfold State.CountersOk; decide

theorem test_witness_StepsNeverStop : (fetching 0x200 [(0x200, 0xD5), (0x201, 0xB1)]).Inv :=
  ⟨fetching_latchOk _ _, by unfold State.ProgOk; decide⟩

theorem test_witness_HostRunsKeepTheInvariantAndAppendToTheTrace : (pending (.jms 0x100)).Inv :=
  ⟨pending_latchOk _, by unfold State.ProgOk; decide⟩

theorem test_witness_StepPairsAreCounted : (fetching 0x200 [(0x200, 0xD5)]).phase = .fetch := by decide

/-- Two states whose counters differ. -/
theorem test_witness_CountersNeverInfluenceTheRun :
    State.reset.LatchOk ∧ State.reset.SameButCounters { State.reset with icount := 3, ccount := 6 } ∧
    State.reset ≠ { State.reset with icount := 3, ccount := 6 } :=
  ⟨fetching_latchOk 0 [], rfl, by decide⟩

/-- For each clause an instruction outside its list that has a next state. -/
theorem test_witness_OnlyTheListedInstructionsWriteEachField :
    got (fun _ => ()) (exec (.add 1) State.reset) = some () ∧ got (fun _ => ()) (exec (.jms 0) State.reset) = some () ∧
    (Instr.add 1).mnemonic ∉ [.inc, .isz, .xch, .fim, .fin] ∧ (Instr.jms 0).mnemonic ∉ [.add, .ld, .bbl] ∧
    (Instr.add 1).mnemonic ≠ .jms ∧ (Instr.add 1).mnemonic ∉ [.jcn, .isz, .jin, .jun, .jms, .bbl] := by decide

theorem test_witness_NoInstructionWritesProgramStorage :
    got (fun t => t.progByte 0) (step (fetching 0 [(0, 0xE0)])) = some 0xE0 := by decide

theorem test_witness_InputPortsAreNeverRead :
    got State.trace (exec .rdr State.reset) = some [] ∧
    got State.trace (step (fetching 0 [(0, 0xEA)])) = some [.memRead 0 0xEA] := by decide

/-- An SRC, a step that runs one, a reset after one, and another instruction. -/
theorem test_witness_OnlySrcMovesTheSelectedAddress :
    executed .step (pending (.src 0)) = some (.src 0) ∧
    got State.selectedAddress (act .step (pending (.src 0))) = some (some 0x00) ∧
    got State.selectedAddress (act (.execute (.inc 0)) { State.reset with trace := [.dataSetAddress 0x25] }) =
      some (some 0x25) := by decide

theorem test_witness_OnlyDclMovesTheSelectedBank :
    executed .step (pending .dcl) = some .dcl ∧ got State.selectedBank (act .step (pending .dcl)) = some (some 0) ∧
    got State.selectedBank (act .reset { State.reset with trace := [.bankSelect 2] }) = some (some 2) := by decide

theorem test_witness_EightBitTargetsStayInPageZero :
    got State.pc (exec (.jcn 1 0xFF) (st 0 false 0x802)) = some 0x0FF ∧
    (Instr.jcn 1 0xFF).mnemonic ∉ [.jun, .jms, .bbl] := by decide

/-- One-byte and two-byte instructions at the top. -/
theorem test_witness_ProgramCounterWrapsAtTheTop :
    (fetching 0xFFF [(0xFFF, 0x00)]).phase = .fetch ∧ (fetching 0xFFF [(0xFFF, 0x00)]).pc = 0xFFF ∧
    isTwoByte ((fetching 0xFFF [(0xFFF, 0x00)]).progByte 0xFFF) = false ∧
    isTwoByte ((fetching 0xFFF [(0xFFF, 0x42)]).progByte 0xFFF) = true := by decide

theorem test_witness_ResetDiscardsThePendingInstruction :
    (pending (.ldm 5)).phase = .execute ∧ (pending (.ldm 5)).latch = some (.ldm 5) := by decide

theorem test_witness_HostLoadIsSeenByTheNextFetchOnly :
    (fetching 0xFFF []).phase = .fetch ∧ (fetching 0xFFF []).pc = 0xFFF ∧ Memory.wf (fetching 0xFFF []).prog = true := by decide

/-- Each clause: the table true and false, condition bit 1 set and clear. -/
theorem test_witness_JcnJumpsAsItsTruthTableSays :
    jcnTable 0 true true true = false ∧ jcnTable 1 false false false = true ∧ jcnTable 14 false false true = true ∧
    jcnTable 15 false false false = true ∧ (2#4).getLsbD 1 = true ∧ (13#4).getLsbD 1 = false := by decide

theorem test_witness_IszJumpsWhenTheRegisterWraps :
    ((State.reset.writeReg 0 15).readReg 0).toNat = 15 ∧ ((State.reset.writeReg 0 14).readReg 0).toNat ≠ 15 := by decide

/-- Each clause at its edge: 10, 9 with the carry, 9 without. -/
theorem test_witness_DaaAdjustsAboveNineOrWithCarry :
    ((st 10 false 0).acc.toNat > 9 ∨ (st 10 false 0).cy = true) ∧ ((st 9 true 0).acc.toNat > 9 ∨ (st 9 true 0).cy = true) ∧
    ¬((st 9 false 0).acc.toNat > 9 ∨ (st 9 false 0).cy = true) := by decide

theorem test_witness_KbpGivesTheBitIndexOrFifteen :
    (st 8 false 0).acc.toNat = 2 ^ 3 ∧ (∀ k, k < 4 → (st 0 false 0).acc.toNat ≠ 2 ^ k) ∧
    (∀ k, k < 4 → (st 15 false 0).acc.toNat ≠ 2 ^ k) := by decide

theorem test_witness_UnknownEmitsOneDiagnosticAndGoesOn :
    (fetching 0x00C [(0x00C, 0xE3), (0x00D, 0x40)]).phase = .fetch ∧
    decode ((fetching 0x00C [(0x00C, 0xE3), (0x00D, 0x40)]).progByte 0x00C)
      ((fetching 0x00C [(0x00C, 0xE3), (0x00D, 0x40)]).progByte (0x00C + 1)) = .unknown := by decide

end Sys2Proof.Tests
end

/-! # What each instruction leaves unchanged, and the port calls it makes (O20)

A calculus of frames: how two frames compose, and the frame of each operation of the state, proved once. The frame of an
instruction is then read off its meaning, one line per group of instructions that share a shape. -/

namespace Sys2Proof.Machine

/-! ## Frames compose -/

theorem Frame.refl (s : State) : Frame [] s s := by
  intro c _
  cases c <;> exact rfl

theorem Component.Same.trans {c : Component} {s t u : State} (hst : c.Same s t) (htu : c.Same t u) : c.Same s u := by
  cases c <;> exact Eq.trans htu hst

theorem Frame.trans {ws ws' : List Component} {s t u : State} (hst : Frame ws s t) (htu : Frame ws' t u) :
    Frame (ws ++ ws') s u := by
  intro c hc
  rw [List.mem_append, not_or] at hc
  obtain ⟨hws, hws'⟩ := hc
  exact (hst c hws).trans (htu c hws')

theorem Frame.mono {ws ws' : List Component} {s t : State} (h : Frame ws s t) (hsub : ws ⊆ ws') : Frame ws' s t :=
  fun c hc => h c fun hmem => hc (hsub hmem)

/-! ## The frame of each operation of the state -/

theorem frame_writeReg (s : State) (r v : Nibble) : Frame [.reg r] s (s.writeReg r v) := by
  intro c hc
  cases c with
  | reg q => exact s.readReg_writeReg_of_ne v fun hq => hc (by simp [hq])
  | _ => exact rfl

theorem frame_setAcc (s : State) (v : Nibble) : Frame [.acc] s (s.setAcc v) := by
  intro c hc
  cases c with
  | acc => exact absurd (List.mem_singleton_self _) hc
  | _ => exact rfl

theorem frame_setCy (s : State) (b : Bool) : Frame [.cy] s (s.setCy b) := by
  intro c hc
  cases c with
  | cy => exact absurd (List.mem_singleton_self _) hc
  | _ => exact rfl

theorem frame_setPc (s : State) (t : Addr) : Frame [.pc] s (s.setPc t) := by
  intro c hc
  cases c with
  | pc => exact absurd (List.mem_singleton_self _) hc
  | _ => exact rfl

theorem frame_push (s : State) (t : Addr) : Frame [.slot s.sp, .sp] s (s.push t) := by
  intro c hc
  cases c with
  | slot k => exact s.slot_push_of_ne t fun hk => hc (by simp [hk])
  | sp => exact absurd (by simp) hc
  | _ => exact rfl

theorem frame_pop (s : State) : Frame [.sp] s s.pop.2 := by
  intro c hc
  cases c with
  | sp => exact absurd (List.mem_singleton_self _) hc
  | _ => exact rfl

theorem frame_record (s : State) (c : PortCall) : Frame [.trace] s (s.record c) := by
  intro c hc
  cases c with
  | trace => exact absurd (List.mem_singleton_self _) hc
  | _ => exact rfl

/-! The operations that take an answer: the coming answers and the port trace. -/

theorem frame_dataRead (s : State) : Frame [.dataIn, .trace] s s.dataRead.2 := by
  intro c hc
  cases c with
  | dataIn | trace => exact absurd (by simp) hc
  | _ => exact rfl

theorem frame_statusRead (s : State) (n : ChannelIdx) : Frame [.statusIn, .trace] s (s.statusRead n).2 := by
  intro c hc
  cases c with
  | statusIn | trace => exact absurd (by simp) hc
  | _ => exact rfl

theorem frame_testPin (s : State) : Frame [.pinIn, .trace] s s.testPin.2 := by
  intro c hc
  cases c with
  | pinIn | trace => exact absurd (by simp) hc
  | _ => exact rfl

/-! The operations made of two writes. -/

theorem frame_setAcc_setCy (s : State) (v : Nibble) (b : Bool) : Frame [.acc, .cy] s ((s.setAcc v).setCy b) :=
  (frame_setAcc s v).trans (frame_setCy _ b)

theorem frame_setAccCy (s : State) (r : Nibble × Bool) : Frame [.acc, .cy] s (s.setAccCy r) :=
  frame_setAcc_setCy s r.1 r.2

theorem frame_pairWrite (s : State) (p : PairIdx) (v : Byte) : Frame (pairComponents p) s (s.pairWrite p v) := by
  rw [pairComponents, lowReg_eq, highReg_eq]
  exact (frame_writeReg s _ _).trans (frame_writeReg _ _ _)

/-! ## The frame of an instruction -/

theorem frame_readStatus {n : ChannelIdx} {s t : State} (h : readStatus n s = .next t) :
    Frame [.acc, .statusIn, .trace] s t := by
  cases h
  exact ((frame_statusRead s n).trans (frame_setAcc _ _)).mono (by decide)

theorem frame_jcn {c : Nibble} {a : Byte} {s t : State} (h : exec (.jcn c a) s = .next t) :
    Frame (writes (.jcn c a) s) s t := by
  cases hc : c.getLsbD 1 with
  | false =>
    rw [execJcn_of_not_asksPin hc] at h
    cases h
    simp only [writes, hc, Bool.false_eq_true, if_false]
    exact frame_setPc s _
  | true =>
    rw [execJcn_of_asksPin hc] at h
    cases h
    simp only [writes, hc, if_true]
    exact ((frame_testPin s).trans (frame_setPc _ _)).mono (by decide)

/-- Where there is nothing to adjust, DAA writes back what it read. -/
theorem execDaa_of_not_adjust {s : State} (h : ¬(9 < s.acc.toNat ∨ s.cy = true)) : exec .daa s = .next s := by
  simp only [not_or, Bool.not_eq_true] at h
  obtain ⟨hacc, hcy⟩ := h
  simp only [exec, execDaa, decimalAdjust, hacc, hcy, decide_false, Bool.or_self, Bool.false_eq_true, if_false]
  rw [← hcy]
  rfl

theorem frame_daa {s t : State} (h : exec .daa s = .next t) : Frame (writes .daa s) s t := by
  rw [writes]
  split
  next =>
    cases h
    exact frame_setAccCy s _
  next hadj =>
    rw [execDaa_of_not_adjust hadj] at h
    cases h
    exact Frame.refl s

/-- An instruction leaves unchanged everything but what its rule lists (R10). -/
theorem exec_frame {i : Instr} {s t : State} (h : exec i s = .next t) : Frame (writes i s) s t := by
  cases i with
  | jcn c a => exact frame_jcn h
  | daa => exact frame_daa h
  | rd0 | rd1 | rd2 | rd3 => exact frame_readStatus h
  | nop | wrr | rdr => cases h; exact Frame.refl s
  | jin | jun => cases h; exact frame_setPc s _
  | jms t => cases h; exact (frame_push s s.pc).trans (frame_setPc _ t)
  | bbl d => cases h; exact ((frame_pop s).trans (frame_setPc _ _)).trans (frame_setAcc _ d)
  | inc r => cases h; exact frame_writeReg s r _
  | isz r a => cases h; exact (frame_writeReg s r _).trans (frame_setPc _ _)
  | xch r => cases h; exact (frame_setAcc s _).trans (frame_writeReg _ r _)
  | fim p d => cases h; exact frame_pairWrite s p d
  | fin p => cases h; exact (frame_record s _).trans (frame_pairWrite _ p _)
  | ld | ldm | cma | kbp => cases h; exact frame_setAcc s _
  | clc | cmc | stc => cases h; exact frame_setCy s _
  | clb | tcc | tcs => cases h; exact frame_setAcc_setCy s _ _
  | add | sub | iac | dac | ral | rar => cases h; exact frame_setAccCy s _
  | rdm => cases h; exact ((frame_dataRead s).trans (frame_setAcc _ _)).mono (by simp [writes])
  | adm | sbm => cases h; exact ((frame_dataRead s).trans (frame_setAccCy _ _)).mono (by simp [writes])
  | src | wrm | wmp | wr0 | wr1 | wr2 | wr3 | dcl | unknown => cases h; exact frame_record s _

/-! ## The port calls of an instruction -/

theorem portCalls_jcn (c : Nibble) (a : Byte) (s : State) :
    portCalls (.jcn c a) s = if c.getLsbD 1 then [.testPin s.pinAnswer] else [] := rfl

theorem trace_jcn {c : Nibble} {a : Byte} {s t : State} (h : exec (.jcn c a) s = .next t) :
    t.trace = s.trace ++ portCalls (.jcn c a) s := by
  cases hc : c.getLsbD 1 with
  | false =>
    rw [execJcn_of_not_asksPin hc] at h
    cases h
    simp only [portCalls_jcn, hc, Bool.false_eq_true, if_false, List.append_nil]
  | true =>
    rw [execJcn_of_asksPin hc] at h
    cases h
    simp only [portCalls_jcn, hc, if_true]

/-- An instruction appends to the port trace exactly the calls its rule lists (R42). -/
theorem exec_trace {i : Instr} {s t : State} (h : exec i s = .next t) : t.trace = s.trace ++ portCalls i s := by
  cases i with
  | jcn c a => exact trace_jcn h
  | src | fin | wrm | wmp | wr0 | wr1 | wr2 | wr3 | sbm | rdm | adm | rd0 | rd1 | rd2 | rd3 | dcl | unknown =>
    cases h; rfl
  | _ => cases h; exact (List.append_nil s.trace).symm

/-! ## The obligation -/

/-- Settles O20: the engine is total, and each instruction's frame and port calls are those of its rule. -/
theorem instructionsDoOnlyWhatTheirRulesList : Obligations.InstructionsDoOnlyWhatTheirRulesList := by
  intro i s
  obtain ⟨t, ht⟩ := exec_next i s
  exact ⟨t, ht, exec_frame ht, exec_trace ht⟩

end Sys2Proof.Machine

/-! # The bookkeeping of a step, and what never depends on it (O11, O13, O14, O15, O16, O19)

What a step does to the phase, the latch and the two counters is said once (`step_bookkeeping`), and so is that the
execution engine does not read them (`exec_withControl`). The invariants and the independence of the counters follow. -/

namespace Sys2Proof.Machine

/-! ## What a step does to the fields of the step machine -/

/-- The FETCH phase latches an instruction, moves to EXECUTE and counts nothing (R72, R74). -/
theorem fetchPhase_bookkeeping (s : State) :
    (fetchPhase s).phase = .execute ∧ (fetchPhase s).latch ≠ none ∧ (fetchPhase s).icount = s.icount ∧
      (fetchPhase s).ccount = s.ccount ∧ (fetchPhase s).prog = s.prog := by
  cases htwo : isTwoByte (s.progByte s.pc) with
  | false => simp [fetchPhase_one htwo]
  | true => simp [fetchPhase_two htwo]

/-- Every step counts a cycle and leaves program storage alone. One from FETCH ends in EXECUTE with an instruction
pending; one from EXECUTE empties the latch, ends in FETCH and counts an instruction (R71, R72, R75, R79). -/
theorem step_bookkeeping {s t : State} (h : step s = .next t) :
    t.ccount = s.ccount + 1 ∧ t.prog = s.prog ∧
      ((s.phase = .fetch ∧ t.phase = .execute ∧ t.latch ≠ none ∧ t.icount = s.icount) ∨
       (s.phase = .execute ∧ t.phase = .fetch ∧ t.latch = none ∧ t.icount = s.icount + 1)) := by
  obtain ⟨hp, rfl⟩ | ⟨i, u, hp, _, hu, rfl⟩ := step_next_cases h
  · obtain ⟨hphase, hlatch, hicount, hccount, hprog⟩ := fetchPhase_bookkeeping s.countCycle
    exact ⟨hccount, hprog, .inl ⟨hp, hphase, hlatch, hicount⟩⟩
  · obtain ⟨_, _, hicount, hccount, hprog⟩ := exec_control hu
    exact ⟨hccount, hprog, .inr ⟨hp, rfl, rfl, congrArg (· + 1) hicount⟩⟩

/-- A step answers a next state wherever the latch rule of R22 holds. -/
theorem step_next_of_latchOk {s : State} (h : s.LatchOk) : ∃ t, step s = .next t := by
  cases hp : s.phase with
  | fetch => exact ⟨_, step_of_fetch hp⟩
  | execute =>
    cases hl : s.latch with
    | none => exact absurd (hp.symm.trans (h.mp hl)) (by decide)
    | some i =>
      obtain ⟨t, ht⟩ := exec_next i s.countCycle
      exact ⟨_, step_of_execute hp hl ht⟩

/-! ## The invariants -/

/-- Whatever state it starts from, a step ends with the latch empty exactly in phase FETCH. -/
theorem step_latchOk {s t : State} (h : step s = .next t) : t.LatchOk := by
  obtain ⟨_, _, ⟨_, hphase, hlatch, _⟩ | ⟨_, hphase, hlatch, _⟩⟩ := step_bookkeeping h
  · simp [State.LatchOk, hphase, hlatch]
  · simp [State.LatchOk, hphase, hlatch]

theorem step_progOk {s t : State} (hs : s.ProgOk) (h : step s = .next t) : t.ProgOk := by
  obtain ⟨_, hprog, _⟩ := step_bookkeeping h
  rwa [State.ProgOk, hprog]

theorem step_inv {s t : State} (hs : s.Inv) (h : step s = .next t) : t.Inv :=
  ⟨step_latchOk h, step_progOk hs.prog h⟩

theorem step_countersOk {s t : State} (hs : s.CountersOk) (h : step s = .next t) : t.CountersOk := by
  unfold State.CountersOk at hs ⊢
  obtain ⟨hccount, _, ⟨hp, hphase, _, hicount⟩ | ⟨hp, hphase, _, hicount⟩⟩ := step_bookkeeping h
  · rw [hccount, hicount, hs, hp, hphase]
    rfl
  · rw [hccount, hicount, hs, hp, hphase]
    rfl

theorem phase_ne_of_step {s t : State} (h : step s = .next t) : t.phase ≠ s.phase := by
  obtain ⟨_, _, ⟨hp, hphase, _⟩ | ⟨hp, hphase, _⟩⟩ := step_bookkeeping h
  · simp [hp, hphase]
  · simp [hp, hphase]

/-! ## The engine does not read the fields of the step machine -/

/-- The state with other values in the four fields of the step machine. -/
def State.withControl (s : State) (ph : Phase) (l : Option Instr) (ic cc : Nat) : State :=
  { s with phase := ph, latch := l, icount := ic, ccount := cc }

/-- Execution commutes with any change of the phase, the latch and the counters (R76). -/
theorem exec_withControl {i : Instr} {s t : State} (h : exec i s = .next t) (ph : Phase) (l : Option Instr)
    (ic cc : Nat) : exec i (s.withControl ph l ic cc) = .next (t.withControl ph l ic cc) := by
  cases i with
  | jcn c a =>
    cases hc : c.getLsbD 1 with
    | false => rw [execJcn_of_not_asksPin hc] at h ⊢; cases h; rfl
    | true => rw [execJcn_of_asksPin hc] at h ⊢; cases h; rfl
  | _ => cases h; rfl

/-! ## The counters never influence a run -/

/-- The state with other values in the two counters. -/
def State.withCounters (s : State) (ic cc : Nat) : State := { s with icount := ic, ccount := cc }

theorem State.sameButCounters_iff {s t : State} :
    s.SameButCounters t ↔ ∃ ic cc, t = s.withCounters ic cc := by
  constructor
  · intro h
    exact ⟨t.icount, t.ccount, (congrArg (State.withCounters · t.icount t.ccount) h).symm⟩
  · rintro ⟨ic, cc, rfl⟩
    rfl

theorem exec_withCounters {i : Instr} {s t : State} (h : exec i s = .next t) (ic cc : Nat) :
    exec i (s.withCounters ic cc) = .next (t.withCounters ic cc) := by
  obtain ⟨hphase, hlatch, _⟩ := exec_control h
  have hcomm := exec_withControl h s.phase s.latch ic cc
  exact hcomm.trans (by rw [← hphase, ← hlatch]; rfl)

theorem fetchPhase_withCounters (s : State) (ic cc : Nat) :
    fetchPhase (s.withCounters ic cc) = (fetchPhase s).withCounters ic cc := by
  cases htwo : isTwoByte (s.progByte s.pc) with
  | false => rw [fetchPhase_one htwo, fetchPhase_one (s := s.withCounters ic cc) htwo]; rfl
  | true => rw [fetchPhase_two htwo, fetchPhase_two (s := s.withCounters ic cc) htwo]; rfl

/-- A step makes of a state with other counters the same next state, with other counters. -/
theorem step_withCounters {s t : State} (h : step s = .next t) (ic cc : Nat) :
    ∃ ic', step (s.withCounters ic cc) = .next (t.withCounters ic' (cc + 1)) := by
  obtain ⟨hp, rfl⟩ | ⟨i, u, hp, hl, hu, rfl⟩ := step_next_cases h
  · have hfetch : step (s.withCounters ic cc) = _ := step_of_fetch hp
    exact ⟨ic, hfetch.trans (congrArg _ (fetchPhase_withCounters s.countCycle ic (cc + 1)))⟩
  · exact ⟨ic + 1, step_of_execute (s := s.withCounters ic cc) hp hl (exec_withCounters hu ic (cc + 1))⟩

/-- A run completes from any counters, and makes of them the same state with other counters. -/
theorem runSteps_withCounters (n : Nat) {s : State} (hs : s.LatchOk) (ic cc : Nat) :
    ∃ t ic' cc', runSteps n s = .next t ∧ runSteps n (s.withCounters ic cc) = .next (t.withCounters ic' cc') := by
  induction n generalizing s ic cc with
  | zero => exact ⟨s, ic, cc, rfl, rfl⟩
  | succ n ih =>
    obtain ⟨u, hu⟩ := step_next_of_latchOk hs
    obtain ⟨ic₁, hu₁⟩ := step_withCounters hu ic cc
    rw [runSteps_succ hu, runSteps_succ hu₁]
    exact ih (step_latchOk hu) ic₁ (cc + 1)

/-! ## The obligations -/

/-- Settles O14: the latch rule holds after any step, and no step writes program storage. -/
theorem stepKeepsTheInvariant : Obligations.StepKeepsTheInvariant := fun _ _ hs h => step_inv hs h

/-- Settles O16, by induction on the number of steps: the invariant makes the first step complete, and it holds again
after it. -/
theorem stepsNeverStop : Obligations.StepsNeverStop := by
  intro n
  induction n with
  | zero => exact fun s hs => ⟨s, runSteps_zero s, hs, rfl⟩
  | succ n ih =>
    intro s hs
    obtain ⟨u, hu⟩ := step_next_of_latchOk hs.latch
    obtain ⟨hccount, _⟩ := step_bookkeeping hu
    obtain ⟨t, ht, htinv, htcount⟩ := ih u (step_inv hs hu)
    exact ⟨t, (runSteps_succ hu).trans ht, htinv, by omega⟩

/-- Settles O19: a state that differs only in the counters is the same state with other counters, and runs keep that. -/
theorem countersNeverInfluenceTheRun : Obligations.CountersNeverInfluenceTheRun := by
  intro n s t hs h
  obtain ⟨ic, cc, rfl⟩ := State.sameButCounters_iff.mp h
  obtain ⟨s', ic', cc', hs', ht'⟩ := runSteps_withCounters n hs ic cc
  exact ⟨s', _, hs', ht', State.sameButCounters_iff.mpr ⟨ic', cc', rfl⟩⟩

/-- Settles O11: a step changes the phase, and execution commutes with any change of it. -/
theorem phaseAlternatesAndNoInstructionTouchesIt : Obligations.PhaseAlternatesAndNoInstructionTouchesIt := by
  refine ⟨rfl, fun s hs => ?_, fun i s ph => ?_⟩
  · obtain ⟨t, ht⟩ := step_next_of_latchOk hs
    exact ⟨t, ht, phase_ne_of_step ht⟩
  · obtain ⟨t, ht⟩ := exec_next i s
    obtain ⟨hphase, hlatch, hicount, hccount, _⟩ := exec_control ht
    have hcomm := exec_withControl ht ph s.latch s.icount s.ccount
    exact ⟨t, ht, hphase, hcomm.trans (by rw [← hlatch, ← hicount, ← hccount]; rfl)⟩

/-- Settles O15: a step from FETCH counts the odd cycle, a step from EXECUTE the even one and the instruction. -/
theorem stepKeepsTheCountersInvariant : Obligations.StepKeepsTheCountersInvariant :=
  fun _ _ hs h => step_countersOk hs h

/-- Settles O13: the state after reset is in FETCH with an empty latch, nothing placed and nothing counted. -/
theorem resetStateMeetsTheInvariant : Obligations.ResetStateMeetsTheInvariant :=
  ⟨⟨iff_of_true rfl rfl, State.reset_prog_wf⟩, rfl⟩

end Sys2Proof.Machine

/-! # Which instructions write each field, and which calls move the selections (O21, O24, O25)

`writers` turns the write lists of the instructions round: for a component, the instructions that may write it. The
selected address and bank are read off the calls an action appends to the port trace. -/

namespace Sys2Proof.Machine

/-! ## The writers of a component -/

/-- The instructions whose write list can hold a component: the lists of R14, R16, R17, R19, R20 and R90 field by field;
nothing executed writes the phase, the latch, the counters or program storage (R21 to R23, R45). -/
def writers : Component → List Mnemonic
  | .reg _ => [.inc, .isz, .xch, .fim, .fin]
  | .acc => [.add, .sub, .ld, .xch, .bbl, .ldm, .sbm, .rdm, .adm, .rd0, .rd1, .rd2, .rd3, .clb, .iac, .cma, .ral, .rar,
      .tcc, .dac, .tcs, .daa, .kbp]
  | .cy => [.add, .adm, .sub, .sbm, .iac, .dac, .ral, .rar, .clb, .clc, .tcc, .tcs, .stc, .cmc, .daa]
  | .pc => [.jcn, .isz, .jin, .jun, .jms, .bbl]
  | .slot _ => [.jms]
  | .sp => [.jms, .bbl]
  | .dataIn => [.sbm, .rdm, .adm]
  | .statusIn => [.rd0, .rd1, .rd2, .rd3]
  | .pinIn => [.jcn]
  | .trace => [.jcn, .src, .fin, .wrm, .wmp, .wr0, .wr1, .wr2, .wr3, .sbm, .rdm, .adm, .rd0, .rd1, .rd2, .rd3, .dcl,
      .unknown]
  | .phase | .latch | .icount | .ccount | .progByte _ => []

/-- What an instruction writes names it among its writers. -/
theorem mnemonic_mem_writers (i : Instr) (s : State) : ∀ c ∈ writes i s, i.mnemonic ∈ writers c := by
  cases i with
  | jcn | daa =>
    rw [writes]
    split <;> simp [writers, Instr.mnemonic, Instr.raw]
  | _ => simp [writes, pairComponents, writers, Instr.mnemonic, Instr.raw]

/-- An instruction that is no writer of a component leaves it unchanged. -/
theorem exec_same_of_not_mem_writers {i : Instr} {s t : State} (h : exec i s = .next t) {c : Component}
    (hc : i.mnemonic ∉ writers c) : c.Same s t :=
  exec_frame h c fun hmem => hc (mnemonic_mem_writers i s c hmem)

/-! ## What an action appends to the port trace -/

/-- The calls of an instruction do not depend on the cycle count. -/
theorem portCalls_countCycle (i : Instr) (s : State) : portCalls i s.countCycle = portCalls i s := by
  cases i <;> rfl

/-- The FETCH phase appends the reads of the bytes it fetched, and nothing else (R73). -/
theorem fetchPhase_trace (s : State) :
    ∃ reads : List (Addr × Byte), (fetchPhase s).trace = s.trace ++ reads.map fun r => .memRead r.1 r.2 := by
  cases htwo : isTwoByte (s.progByte s.pc) with
  | false =>
    rw [fetchPhase_one htwo]
    exact ⟨[(s.pc, s.progByte s.pc)], rfl⟩
  | true =>
    rw [fetchPhase_two htwo]
    exact ⟨[(s.pc, s.progByte s.pc), (s.pc + 1, s.progByte (s.pc + 1))], List.append_assoc ..⟩

/-- A host action appends the calls of the instruction it executes, or, where it executes none, program reads only. -/
theorem act_trace_cases {a : HostAction} {s t : State} (h : act a s = .next t) :
    (∃ i, executed a s = some i ∧ t.trace = s.trace ++ portCalls i s) ∨
    (executed a s = none ∧
      ∃ reads : List (Addr × Byte), t.trace = s.trace ++ reads.map fun r => .memRead r.1 r.2) := by
  cases a with
  | step =>
    obtain ⟨hp, rfl⟩ | ⟨i, u, hp, hl, hu, rfl⟩ := step_next_cases h
    · exact .inr ⟨by simp [executed, hp], fetchPhase_trace s.countCycle⟩
    · refine .inl ⟨i, by simp [executed, hp, hl], ?_⟩
      rw [← portCalls_countCycle]
      exact exec_trace hu
  | execute i => exact .inl ⟨i, rfl, exec_trace h⟩
  | reset | load =>
    cases h
    exact .inr ⟨rfl, [], (List.append_nil _).symm⟩

/-! ## The selections -/

theorem State.selectedAddress_of_calls {s t : State} {calls : List PortCall} (h : t.trace = s.trace ++ calls) :
    t.selectedAddress = (calls.filterMap addressOf?).getLast?.or s.selectedAddress := by
  rw [State.selectedAddress, h, List.filterMap_append, List.getLast?_append, State.selectedAddress]

theorem State.selectedBank_of_calls {s t : State} {calls : List PortCall} (h : t.trace = s.trace ++ calls) :
    t.selectedBank = (calls.filterMap bankOf?).getLast?.or s.selectedBank := by
  rw [State.selectedBank, h, List.filterMap_append, List.getLast?_append, State.selectedBank]

theorem State.selectedAddress_of_reads {s t : State} {reads : List (Addr × Byte)}
    (h : t.trace = s.trace ++ reads.map fun r => .memRead r.1 r.2) : t.selectedAddress = s.selectedAddress := by
  simp [State.selectedAddress_of_calls h, List.filterMap_map, Function.comp_def, addressOf?]

theorem State.selectedBank_of_reads {s t : State} {reads : List (Addr × Byte)}
    (h : t.trace = s.trace ++ reads.map fun r => .memRead r.1 r.2) : t.selectedBank = s.selectedBank := by
  simp [State.selectedBank_of_calls h, List.filterMap_map, Function.comp_def, bankOf?]

/-- The pair read as a byte is the value of R15. -/
theorem State.toNat_pairRead (s : State) (p : PairIdx) : (s.pairRead p).toNat = pairValue s p := by
  have hlow := (s.readReg (evenReg p)).isLt
  rw [pairValue, lowReg_eq, highReg_eq, State.pairRead, BitVec.toNat_append, ← Nat.shiftLeft_add_eq_or_of_lt hlow,
    Nat.shiftLeft_eq, Nat.mul_comm]

theorem ofNat_pairValue (s : State) (p : PairIdx) : BitVec.ofNat 8 (pairValue s p) = s.pairRead p := by
  rw [← s.toNat_pairRead, BitVec.ofNat_toNat, BitVec.setWidth_eq]

theorem ofNat_mod_four_eq_bankOf (v : Nibble) : BitVec.ofNat 2 (v.toNat % 4) = bankOf v := by
  revert v; decide

/-! ## The obligations -/

/-- Settles O21, from the frame of each instruction: the six lists are those of `writers`. -/
theorem onlyTheListedInstructionsWriteEachField : Obligations.OnlyTheListedInstructionsWriteEachField := by
  intro i s t h
  have hsame := @exec_same_of_not_mem_writers i s t h
  exact ⟨fun hi r => hsame (c := .reg r) hi, fun hi => hsame (c := .acc) hi, fun hi => hsame (c := .cy) hi,
    fun hi k => hsame (c := .slot k) fun hmem => hi (List.mem_singleton.mp hmem), fun hi => hsame (c := .sp) hi,
    fun hi => hsame (c := .pc) hi⟩

/-- Settles O24: of the calls of an instruction, only that of SRC passes an address, and fetching makes reads only. -/
theorem onlySrcMovesTheSelectedAddress : Obligations.OnlySrcMovesTheSelectedAddress := by
  intro a s t h
  obtain ⟨i, hi, htrace⟩ | ⟨hnone, reads, htrace⟩ := act_trace_cases h
  · rw [hi, State.selectedAddress_of_calls htrace]
    cases i with
    | src p => exact congrArg some (ofNat_pairValue s p).symm
    | jcn c a => rw [portCalls_jcn]; split <;> exact Option.none_or
    | _ => exact Option.none_or
  · rw [hnone, State.selectedAddress_of_reads htrace]

/-- Settles O25: of the calls of an instruction, only that of DCL selects a bank, and fetching makes reads only. -/
theorem onlyDclMovesTheSelectedBank : Obligations.OnlyDclMovesTheSelectedBank := by
  intro a s t h
  obtain ⟨i, hi, htrace⟩ | ⟨hnone, reads, htrace⟩ := act_trace_cases h
  · rw [hi, State.selectedBank_of_calls htrace]
    cases i with
    | dcl => exact congrArg some (ofNat_mod_four_eq_bankOf s.acc).symm
    | jcn c a => rw [portCalls_jcn]; split <;> exact Option.none_or
    | _ => exact Option.none_or
  · rw [hnone, State.selectedBank_of_reads htrace]

end Sys2Proof.Machine

/-! # The reset and the register pair (O28, O39) -/

namespace Sys2Proof.Machine

/-! ## The power-on values read as zero -/

theorem State.readReg_hostReset (s : State) (r : Nibble) : s.hostReset.readReg r = 0 :=
  Vector.getElem_replicate ..

theorem State.slot_hostReset (s : State) (k : Fin 3) : s.hostReset.slot k = 0 :=
  Vector.getElem_replicate ..

/-! ## A pair written and read -/

theorem State.pairRead_pairWrite (s : State) (p : PairIdx) (v : Byte) : (s.pairWrite p v).pairRead p = v := by
  rw [State.pairRead, State.readReg_pairWrite_odd, State.readReg_pairWrite_even]
  revert v; decide

theorem toNat_pairLow (v : Byte) : (pairLow v).toNat = v.toNat % 16 := by
  simp [pairLow]

theorem toNat_pairHigh (v : Byte) : (pairHigh v).toNat = v.toNat / 16 := by
  have hv := v.isLt
  rw [pairHigh, BitVec.extractLsb'_toNat, Nat.shiftRight_eq_div_pow]
  omega

/-! ## The bytes that name a pair -/

/-- A first byte that asks for no second one is decoded alone. -/
theorem decodesTo_of_oneByte {op : Byte} {i : Instr} (hone : isTwoByte op = false) (hi : decode op 0x00#8 = i) :
    DecodesTo [op] i := by
  intro rest
  simp [decodeBytes, hone, hi]

/-- A first byte that asks for a second one is decoded with it. -/
theorem decodesTo_of_twoByte {op b2 : Byte} {i : Instr} (htwo : isTwoByte op = true) (hi : decode op b2 = i) :
    DecodesTo [op, b2] i := by
  intro rest
  simp [decodeBytes, htwo, hi]

/-- Row 0x2 with bit 0 clear is FIM, whatever its data byte. -/
theorem decode_fim (p : PairIdx) (d : Byte) : decode (0x20#8 ||| p.setWidth 8 <<< 1) d = .fim p d := by
  have hrow : highNibble (0x20#8 ||| p.setWidth 8 <<< 1) = 0x2#4 := by revert p; decide
  have hbit : selectBit (0x20#8 ||| p.setWidth 8 <<< 1) = false := by revert p; decide
  have hpair : pairField (0x20#8 ||| p.setWidth 8 <<< 1) = p := by revert p; decide
  simp [decode, hrow, hbit, hpair]

/-! ## The obligations -/

/-- Settles O28: each field of the core reads as its power-on value, and the others are those of the state before. -/
theorem resetZeroesTheCoreAndNothingElse : Obligations.ResetZeroesTheCoreAndNothingElse :=
  ⟨fun s => ⟨s.hostReset, rfl, s.readReg_hostReset, rfl, rfl, rfl, s.slot_hostReset, rfl, rfl, rfl, rfl, rfl,
    s.progByte_hostReset, rfl, rfl, rfl, rfl⟩, rfl⟩

/-- Settles O39: a pair is its two registers side by side, and the first bytes carry its index in bits 3 to 1. -/
theorem registerPairIsAViewOfTwoRegisters : Obligations.RegisterPairIsAViewOfTwoRegisters := by
  intro s p v
  refine ⟨s.toNat_pairRead p, s.pairRead_pairWrite p v, ?_, ?_, frame_pairWrite s p v, ?fim, ?src, ?fin, ?jin⟩
  · rw [lowReg_eq, State.readReg_pairWrite_even, toNat_pairLow]
  · rw [highReg_eq, State.readReg_pairWrite_odd, toNat_pairHigh]
  case fim => exact decodesTo_of_twoByte (by revert p; decide) (decode_fim p v)
  case src => exact decodesTo_of_oneByte (by revert p; decide) (by revert p; decide)
  case fin => exact decodesTo_of_oneByte (by revert p; decide) (by revert p; decide)
  case jin => exact decodesTo_of_oneByte (by revert p; decide) (by revert p; decide)

end Sys2Proof.Machine

/-! # Program storage, the input port and the runs of the host (O17, O22, O23, O30)

What one host action does to the invariant and to the port trace is said once (`act_inv`, `act_trace_prefix`,
`act_count_ioReadInput`); the statements about an instruction or a step are the cases of an action, and the statement about
runs is an induction on the list of actions. -/

namespace Sys2Proof.Machine

/-! ## Program storage -/

/-- Placing a byte leaves unchanged everything but the byte at that address (R52). -/
theorem frame_load (s : State) (a : Addr) (b : Byte) : Frame [.progByte a] s (s.load a b) := by
  intro c hc
  cases c with
  | progByte a' => exact s.progByte_load_of_ne b fun ha => hc (by simp [ha])
  | _ => exact rfl

theorem load_progOk {s : State} (hs : s.ProgOk) (a : Addr) (b : Byte) : (s.load a b).ProgOk :=
  Memory.store_wf s.prog a b hs

/-- A byte of program storage reads the same where the placed bytes are the same. -/
theorem State.progByte_eq_of_prog_eq {s t : State} (h : t.prog = s.prog) (a : Addr) : t.progByte a = s.progByte a := by
  rw [State.progByte, h, State.progByte]

/-- The first call of the FETCH phase is the read at `pc` (R73). -/
theorem fetchPhase_reads_pc (s : State) :
    (s.trace ++ [.memRead s.pc (s.progByte s.pc)]) <+: (fetchPhase s).trace := by
  cases htwo : isTwoByte (s.progByte s.pc) with
  | false => simp [fetchPhase_one htwo]
  | true => simp [fetchPhase_two htwo]

/-! ## What a host action can do -/

/-- An action answers a next state wherever the latch rule of R22 holds. -/
theorem act_next_of_latchOk (a : HostAction) {s : State} (hs : s.LatchOk) : ∃ t, act a s = .next t := by
  cases a with
  | step => exact step_next_of_latchOk hs
  | execute i => exact exec_next i s
  | reset | load => exact ⟨_, rfl⟩

/-- An injected instruction touches neither the latch and the phase nor program storage (R45, R76, R77). -/
theorem exec_inv {i : Instr} {s t : State} (hs : s.Inv) (h : exec i s = .next t) : t.Inv := by
  obtain ⟨hphase, hlatch, _, _, hprog⟩ := exec_control h
  constructor
  · rw [State.LatchOk, hphase, hlatch]
    exact hs.latch
  · rw [State.ProgOk, hprog]
    exact hs.prog

/-- Every action keeps the invariant. -/
theorem act_inv {a : HostAction} {s t : State} (hs : s.Inv) (h : act a s = .next t) : t.Inv := by
  cases a with
  | step => exact step_inv hs h
  | execute i => exact exec_inv hs h
  | reset =>
    cases h
    exact ⟨iff_of_true rfl rfl, hs.prog⟩
  | load addr b =>
    cases h
    exact ⟨hs.latch, load_progOk hs.prog addr b⟩

/-- No action takes a call back from the port trace (R43). -/
theorem act_trace_prefix {a : HostAction} {s t : State} (h : act a s = .next t) : s.trace <+: t.trace := by
  obtain ⟨i, _, htrace⟩ | ⟨_, reads, htrace⟩ := act_trace_cases h
  · exact ⟨_, htrace.symm⟩
  · exact ⟨_, htrace.symm⟩

/-- A call that is not among the appended ones occurs as often as before. -/
theorem count_trace_of_calls {s t : State} {calls : List PortCall} {c : PortCall} (h : t.trace = s.trace ++ calls)
    (hc : c ∉ calls) : t.trace.count c = s.trace.count c := by
  rw [h, List.count_append, List.count_eq_zero.mpr hc, Nat.add_zero]

/-- Reading an input port is not among the calls of any instruction (R38). -/
theorem ioReadInput_not_mem_portCalls (i : Instr) (s : State) (port v : Nibble) :
    .ioReadInput port v ∉ portCalls i s := by
  cases i with
  | jcn c a => rw [portCalls_jcn]; split <;> simp
  | _ => simp [portCalls]

/-- No action reads an input port (R38). -/
theorem act_count_ioReadInput {a : HostAction} {s t : State} (h : act a s = .next t) (port v : Nibble) :
    t.trace.count (.ioReadInput port v) = s.trace.count (.ioReadInput port v) := by
  obtain ⟨i, _, htrace⟩ | ⟨_, reads, htrace⟩ := act_trace_cases h
  · exact count_trace_of_calls htrace (ioReadInput_not_mem_portCalls i s port v)
  · exact count_trace_of_calls htrace (by simp)

/-! ## The obligations -/

/-- Settles O17, by induction on the list of actions: the invariant makes the first action complete, it holds again after
it, and what that action appended stays. -/
theorem hostRunsKeepTheInvariantAndAppendToTheTrace : Obligations.HostRunsKeepTheInvariantAndAppendToTheTrace := by
  intro as
  induction as with
  | nil => exact fun s hs => ⟨s, runActions_nil s, hs, List.prefix_refl _⟩
  | cons a as ih =>
    intro s hs
    obtain ⟨u, hu⟩ := act_next_of_latchOk a hs.latch
    obtain ⟨t, ht, htinv, hut⟩ := ih u (act_inv hs hu)
    exact ⟨t, (runActions_cons hu).trans ht, htinv, (act_trace_prefix hu).trans hut⟩

/-- Settles O22: neither the engine nor a step changes the placed bytes, and 0xE3 is a one-byte UNKNOWN. -/
theorem noInstructionWritesProgramStorage : Obligations.NoInstructionWritesProgramStorage := by
  refine ⟨decodesTo_of_oneByte (by decide) (by decide), fun i s => ?_, fun s t h => ?_⟩
  · obtain ⟨t, ht⟩ := exec_next i s
    obtain ⟨_, _, _, _, hprog⟩ := exec_control ht
    exact ⟨t, ht, State.progByte_eq_of_prog_eq hprog⟩
  · obtain ⟨_, hprog, _⟩ := step_bookkeeping h
    exact State.progByte_eq_of_prog_eq hprog

/-- Settles O23: an injected instruction and a step are host actions, and no action reads an input port. -/
theorem inputPortsAreNeverRead : Obligations.InputPortsAreNeverRead :=
  ⟨fun _ => rfl, fun i _ _ h => act_count_ioReadInput (a := .execute i) h,
    fun _ _ h => act_count_ioReadInput (a := .step) h⟩

/-- Settles O30: the byte placed at `pc` is what the first read of the next FETCH step answers. -/
theorem hostLoadIsSeenByTheNextFetchOnly : Obligations.HostLoadIsSeenByTheNextFetchOnly := by
  intro s a b
  refine ⟨s.load a b, rfl, s.progByte_load_self a b, frame_load s a b, fun hs => load_progOk hs a b, fun hp hpc => ?_⟩
  subst hpc
  have hread : (s.trace ++ [.memRead s.pc b]) <+: (fetchPhase (s.load s.pc b).countCycle).trace := by
    simpa using fetchPhase_reads_pc (s.load s.pc b).countCycle
  exact ⟨_, step_of_fetch hp, hread⟩

end Sys2Proof.Machine

/-! # Encoding and decoding (O1 to O6)

A first byte is a row of the opcode map and the field that fills it (`firstByte_cases`), and the decoder has one
equation for each of them. That decoding undoes encoding is then a case per instruction, that encoding undoes decoding a
case per row. The lines of R63 follow the shapes of their mnemonics: no operand, one or two. -/

namespace Sys2Proof.Machine

/-! ## The fields of a byte put together from its parts (R54, R59) -/

@[simp] theorem highNibble_append (h n : Nibble) : highNibble (h ++ n) = h := BitVec.extractLsb'_append_eq_left

@[simp] theorem lowNibble_append (h n : Nibble) : lowNibble (h ++ n) = n := BitVec.extractLsb'_append_eq_right

theorem highNibble_append_lowNibble (op : Byte) : highNibble op ++ lowNibble op = op :=
  BitVec.extractLsb'_append_extractLsb' (w := 4) (len := 4)

theorem append_pair_eq (h : Nibble) (p : PairIdx) (b : BitVec 1) : (h ++ p ++ b : Byte) = h ++ (p ++ b) :=
  BitVec.append_assoc

@[simp] theorem highNibble_append_pair (h : Nibble) (p : PairIdx) (b : BitVec 1) : highNibble (h ++ p ++ b) = h := by
  rw [append_pair_eq, highNibble_append]

@[simp] theorem pairField_append_pair (h : Nibble) (p : PairIdx) (b : BitVec 1) : pairField (h ++ p ++ b) = p := by
  revert h p b; decide

@[simp] theorem selectBit_append_pair (h : Nibble) (p : PairIdx) (b : BitVec 1) :
    selectBit (h ++ p ++ b) = b.getLsbD 0 := by
  revert h p b; decide

/-- Bit 0 of a byte of row 0x2 or 0x3 stands beside the pair index (format FP). -/
theorem exists_eq_pair_append (n : Nibble) : (∃ p : PairIdx, n = p ++ 0#1) ∨ ∃ p : PairIdx, n = p ++ 1#1 := by
  revert n; decide

@[simp] theorem addressHigh_append (n : Nibble) (v : Byte) : (n ++ v : Addr).extractLsb' 8 4 = n :=
  BitVec.extractLsb'_append_eq_left

@[simp] theorem addressLow_append (n : Nibble) (v : Byte) : (n ++ v : Addr).extractLsb' 0 8 = v :=
  BitVec.extractLsb'_append_eq_right

@[simp] theorem addressHigh_append_addressLow (t : Addr) : t.extractLsb' 8 4 ++ t.extractLsb' 0 8 = t :=
  BitVec.extractLsb'_append_extractLsb' (w := 4) (len := 8)

/-! ## The first byte, row by row of the opcode map (R56 to R58) -/

/-- What holds in every row of the opcode map, whatever fills its field, holds of every byte. -/
theorem firstByte_cases {P : Byte → Prop}
    (row0 : ∀ n : Nibble, P (0x0#4 ++ n))
    (jcn : ∀ c : Nibble, P (0x1#4 ++ c))
    (fim : ∀ p : PairIdx, P (0x2#4 ++ p ++ 0#1))
    (src : ∀ p : PairIdx, P (0x2#4 ++ p ++ 1#1))
    (fin : ∀ p : PairIdx, P (0x3#4 ++ p ++ 0#1))
    (jin : ∀ p : PairIdx, P (0x3#4 ++ p ++ 1#1))
    (jun : ∀ t : Nibble, P (0x4#4 ++ t))
    (jms : ∀ t : Nibble, P (0x5#4 ++ t))
    (inc : ∀ r : Nibble, P (0x6#4 ++ r))
    (isz : ∀ r : Nibble, P (0x7#4 ++ r))
    (add : ∀ r : Nibble, P (0x8#4 ++ r))
    (sub : ∀ r : Nibble, P (0x9#4 ++ r))
    (ld : ∀ r : Nibble, P (0xA#4 ++ r))
    (xch : ∀ r : Nibble, P (0xB#4 ++ r))
    (bbl : ∀ d : Nibble, P (0xC#4 ++ d))
    (ldm : ∀ d : Nibble, P (0xD#4 ++ d))
    (rowE : ∀ n : Nibble, P (0xE#4 ++ n))
    (rowF : ∀ n : Nibble, P (0xF#4 ++ n)) (op : Byte) : P op := by
  have hpair (h n : Nibble) (h0 : ∀ p : PairIdx, P (h ++ p ++ 0#1)) (h1 : ∀ p : PairIdx, P (h ++ p ++ 1#1)) :
      P (h ++ n) := by
    obtain ⟨p, rfl⟩ | ⟨p, rfl⟩ := exists_eq_pair_append n
    · exact append_pair_eq h p 0#1 ▸ h0 p
    · exact append_pair_eq h p 1#1 ▸ h1 p
  rw [← highNibble_append_lowNibble op]
  match highNibble op with
  | 0x0#4 => exact row0 _
  | 0x1#4 => exact jcn _
  | 0x2#4 => exact hpair _ _ fim src
  | 0x3#4 => exact hpair _ _ fin jin
  | 0x4#4 => exact jun _
  | 0x5#4 => exact jms _
  | 0x6#4 => exact inc _
  | 0x7#4 => exact isz _
  | 0x8#4 => exact add _
  | 0x9#4 => exact sub _
  | 0xA#4 => exact ld _
  | 0xB#4 => exact xch _
  | 0xC#4 => exact bbl _
  | 0xD#4 => exact ldm _
  | 0xE#4 => exact rowE _
  | 0xF#4 => exact rowF _
  | ⟨⟨k + 16, hk⟩⟩ => omega

/-! ## The decoder, an equation for each row -/

@[simp] theorem decode_row0 (n : Nibble) (b2 : Byte) :
    decode (0x0#4 ++ n) b2 = if n = 0 then .nop else .unknown := by
  have hn : (0x0#4 ++ n : Byte) = 0x00#8 ↔ n = 0 := by revert n; decide
  simp [decode, hn]

@[simp] theorem decode_row1 (c : Nibble) (b2 : Byte) : decode (0x1#4 ++ c) b2 = .jcn c b2 := by simp [decode]

@[simp] theorem decode_row2_even (p : PairIdx) (b2 : Byte) : decode (0x2#4 ++ p ++ 0#1) b2 = .fim p b2 := by
  simp [decode]

@[simp] theorem decode_row2_odd (p : PairIdx) (b2 : Byte) : decode (0x2#4 ++ p ++ 1#1) b2 = .src p := by simp [decode]

@[simp] theorem decode_row3_even (p : PairIdx) (b2 : Byte) : decode (0x3#4 ++ p ++ 0#1) b2 = .fin p := by simp [decode]

@[simp] theorem decode_row3_odd (p : PairIdx) (b2 : Byte) : decode (0x3#4 ++ p ++ 1#1) b2 = .jin p := by simp [decode]

@[simp] theorem decode_row4 (n : Nibble) (b2 : Byte) : decode (0x4#4 ++ n) b2 = .jun (n ++ b2) := by simp [decode]

@[simp] theorem decode_row5 (n : Nibble) (b2 : Byte) : decode (0x5#4 ++ n) b2 = .jms (n ++ b2) := by simp [decode]

@[simp] theorem decode_row6 (r : Nibble) (b2 : Byte) : decode (0x6#4 ++ r) b2 = .inc r := by simp [decode]

@[simp] theorem decode_row7 (r : Nibble) (b2 : Byte) : decode (0x7#4 ++ r) b2 = .isz r b2 := by simp [decode]

@[simp] theorem decode_row8 (r : Nibble) (b2 : Byte) : decode (0x8#4 ++ r) b2 = .add r := by simp [decode]

@[simp] theorem decode_row9 (r : Nibble) (b2 : Byte) : decode (0x9#4 ++ r) b2 = .sub r := by simp [decode]

@[simp] theorem decode_rowA (r : Nibble) (b2 : Byte) : decode (0xA#4 ++ r) b2 = .ld r := by simp [decode]

@[simp] theorem decode_rowB (r : Nibble) (b2 : Byte) : decode (0xB#4 ++ r) b2 = .xch r := by simp [decode]

@[simp] theorem decode_rowC (d : Nibble) (b2 : Byte) : decode (0xC#4 ++ d) b2 = .bbl d := by simp [decode]

@[simp] theorem decode_rowD (d : Nibble) (b2 : Byte) : decode (0xD#4 ++ d) b2 = .ldm d := by simp [decode]

@[simp] theorem decode_rowE (n : Nibble) (b2 : Byte) : decode (0xE#4 ++ n) b2 = decodeRowE n := by simp [decode]

@[simp] theorem decode_rowF (n : Nibble) (b2 : Byte) : decode (0xF#4 ++ n) b2 = decodeRowF n := by simp [decode]

/-- Rows 0x1, 0x4, 0x5 and 0x7 ask for a second byte, and row 0x2 does where bit 0 is clear (R60). -/
@[simp] theorem isTwoByte_append (h n : Nibble) :
    isTwoByte (h ++ n) = (decide (h ∈ [0x1#4, 0x4#4, 0x5#4, 0x7#4]) || h == 0x2#4 && !n.getLsbD 0) := by
  revert h n; decide

@[simp] theorem isTwoByte_append_pair (h : Nibble) (p : PairIdx) (b : BitVec 1) :
    isTwoByte (h ++ p ++ b) = (decide (h ∈ [0x1#4, 0x4#4, 0x5#4, 0x7#4]) || h == 0x2#4 && b == 0#1) := by
  revert h p b; decide

/-! ## Decoding and encoding undo each other -/

/-- The bytes of an instruction decode to it, whatever follows them. -/
theorem decodesTo_encode (i : Instr) : DecodesTo (encode i) i := by
  cases i with
  | jcn | fim | isz | jun | jms => exact decodesTo_of_twoByte (by simp) (by simp)
  | src | fin | jin | inc | add | sub | ld | xch | bbl | ldm => exact decodesTo_of_oneByte (by simp) (by simp)
  | _ => exact decodesTo_of_oneByte rfl rfl

theorem encode_decodeRowE {n : Nibble} (h : decodeRowE n ≠ .unknown) : encode (decodeRowE n) = [0xE#4 ++ n] := by
  revert n; decide

theorem encode_decodeRowF {n : Nibble} (h : decodeRowF n ≠ .unknown) : encode (decodeRowF n) = [0xF#4 ++ n] := by
  revert n; decide

/-- The bytes an instruction other than UNKNOWN was decoded from are its encoding: no bit of them is dropped (R62). -/
theorem encode_decode {op b2 : Byte} (h : decode op b2 ≠ .unknown) :
    encode (decode op b2) = if isTwoByte op then [op, b2] else [op] := by
  cases op using firstByte_cases with
  | row0 n =>
    obtain rfl : n = 0 := by simpa using h
    rfl
  | rowE n => simpa using encode_decodeRowE (by simpa using h)
  | rowF n => simpa using encode_decodeRowF (by simpa using h)
  | _ => simp [encode]

/-- What the list decoder accepts: the bytes the first one asks for, and the rest. -/
theorem decodeBytes_ok {bs rest : List Byte} {i : Instr} (h : decodeBytes bs = .ok (i, rest)) :
    ∃ op b2, decode op b2 = i ∧ bs = (if isTwoByte op then [op, b2] else [op]) ++ rest := by
  match bs with
  | [] => simp [decodeBytes] at h
  | op :: bs =>
    cases htwo : isTwoByte op with
    | false => exact ⟨op, 0x00#8, by simpa [decodeBytes, htwo] using h⟩
    | true =>
      match bs with
      | [] => simp [decodeBytes, htwo] at h
      | b2 :: bs => exact ⟨op, b2, by simpa [decodeBytes, htwo] using h⟩

/-! ## The first byte alone decides (R53, R60) -/

theorem mnemonic_decode_eq (op b2 b2' : Byte) : (decode op b2).mnemonic = (decode op b2').mnemonic := by
  cases op using firstByte_cases <;> simp [Instr.mnemonic, Instr.raw]

theorem mnemonic_eq_unknown_iff {i : Instr} : i.mnemonic = .unknown ↔ i = .unknown := by
  cases i <;> simp [Instr.mnemonic, Instr.raw]

theorem mnemonic_decode_mem_iff_isTwoByte (op b2 : Byte) :
    (decode op b2).mnemonic ∈ [.jcn, .fim, .jun, .jms, .isz] ↔ isTwoByte op = true := by
  cases op using firstByte_cases with
  | row0 n | rowE n | rowF n =>
    simp only [decode_row0, decode_rowE, decode_rowF]
    revert n; decide
  | _ => simp [Instr.mnemonic, Instr.raw]

/-! ## Instruction lines (R63, R65) -/

theorem operandsFit_nil_iff {vs : List Nat} : operandsFit [] vs = true ↔ vs = [] := by
  cases vs <;> simp [operandsFit]

theorem operandsFit_cons_iff {k : OperandKind} {ks : List OperandKind} {vs : List Nat} :
    operandsFit (k :: ks) vs = true ↔ ∃ v ws, vs = v :: ws ∧ v < k.bound ∧ operandsFit ks ws = true := by
  cases vs <;> simp [operandsFit]

theorem operandsFit_one_iff {k : OperandKind} {vs : List Nat} :
    operandsFit [k] vs = true ↔ ∃ v, vs = [v] ∧ v < k.bound := by
  simp [operandsFit_cons_iff, operandsFit_nil_iff]

theorem operandsFit_two_iff {k l : OperandKind} {vs : List Nat} :
    operandsFit [k, l] vs = true ↔ ∃ v w, vs = [v, w] ∧ v < k.bound ∧ w < l.bound := by
  simp [operandsFit_cons_iff, operandsFit_nil_iff]

/-- The widths of the operand fields are the ranges of R65. -/
theorem instr_wellFormed (i : Instr) : i.wellFormed = true := by
  cases i with
  | jcn | fim | isz => exact operandsFit_two_iff.mpr ⟨_, _, rfl, BitVec.isLt _, BitVec.isLt _⟩
  | src | fin | jin | jun | jms | inc | add | sub | ld | xch | bbl | ldm =>
    exact operandsFit_one_iff.mpr ⟨_, rfl, BitVec.isLt _⟩
  | _ => rfl

theorem toInstr_eq_some_iff {r : RawInstr} {i : Instr} :
    r.toInstr = some i ↔
      r.wellFormed = true ∧ r.mnemonic.build (r.operands.getD 0 0) (r.operands.getD 1 0) = i := by
  rw [RawInstr.toInstr, Option.ite_none_right_eq_some, Option.some.injEq]

theorem toInstr_raw (i : Instr) : i.raw.toInstr = some i :=
  toInstr_eq_some_iff.mpr ⟨instr_wellFormed i, by cases i <;> simp [Instr.raw, Mnemonic.build]⟩

/-- In a well-formed line no operand is cut to the width of its field, and none is left over. -/
theorem raw_eq_of_toInstr {r : RawInstr} {i : Instr} (h : r.toInstr = some i) : i.raw = r := by
  obtain ⟨hwf, rfl⟩ := toInstr_eq_some_iff.mp h
  obtain ⟨m, vs⟩ := r
  cases m with
  | jcn | fim | isz =>
    obtain ⟨v, w, rfl, hv, hw⟩ := operandsFit_two_iff.mp hwf
    simpa [Mnemonic.build, Instr.raw, OperandKind.bound] using ⟨hv, hw⟩
  | src | fin | jin | jun | jms | inc | add | sub | ld | xch | bbl | ldm =>
    obtain ⟨v, rfl, hv⟩ := operandsFit_one_iff.mp hwf
    simpa [Mnemonic.build, Instr.raw, OperandKind.bound] using hv
  | _ =>
    obtain rfl := operandsFit_nil_iff.mp hwf
    rfl

/-! ## The obligations -/

/-- Settles O2: the ranges of R65 are the widths of the fields, and decoding undoes encoding. -/
theorem decodeOfEncodeIsTheInstruction : Obligations.DecodeOfEncodeIsTheInstruction :=
  fun i rest => ⟨instr_wellFormed i, decodesTo_encode i rest⟩

/-- Settles O3: the list decoder uses up the bytes that its first byte asks for, and encoding undoes decoding. -/
theorem decodedBytesAreTheEncoding : Obligations.DecodedBytesAreTheEncoding := by
  intro bs rest i h hi
  obtain ⟨op, b2, rfl, rfl⟩ := decodeBytes_ok h
  rw [encode_decode hi]

/-- Settles O5: the second byte is never more than an operand, and the five are the rows that ask for one. -/
theorem twoByteInstructionsAreTheFive : Obligations.TwoByteInstructionsAreTheFive := by
  refine ⟨fun op b2 b2' => ⟨mnemonic_decode_eq op b2 b2', ?_⟩, fun bs rest i h => ?_⟩
  · simp only [mnemonic_decode_mem_iff_isTwoByte, instrLength]
  · obtain ⟨op, b2, rfl, rfl⟩ := decodeBytes_ok h
    simp only [mnemonic_decode_mem_iff_isTwoByte]
    cases isTwoByte op <;> simp

/-- Settles O6: a line is read back into the instruction it was written from, and only such a line is read. -/
theorem lineNamesTheInstructionOfItsOperands : Obligations.LineNamesTheInstructionOfItsOperands :=
  fun _ i => ⟨fun h => (raw_eq_of_toInstr h).symm, fun h => h ▸ toInstr_raw i⟩

/-- Settles O1: the words are the encodings of these thirteen instructions. -/
theorem writtenOutWordsDecode : Obligations.WrittenOutWordsDecode :=
  ⟨decodesTo_encode (.ldm 5), decodesTo_encode (.xch 1), decodesTo_encode (.add 1), decodesTo_encode (.jcn 4 0x40),
    decodesTo_encode (.jun 0x234), decodesTo_encode (.fim 1 0x25), decodesTo_encode (.src 1), decodesTo_encode (.fin 2),
    decodesTo_encode (.jin 2), decodesTo_encode (.isz 0 7), decodesTo_encode .wrm, decodesTo_encode .ral,
    decodesTo_encode .unknown⟩

/-- Settles O4: the second byte does not matter, and of the 256 first bytes these 18 are outside the map. -/
theorem unmappedBytesDecodeToUnknown : Obligations.UnmappedBytesDecodeToUnknown := by
  intro op b2
  rw [← mnemonic_eq_unknown_iff, mnemonic_decode_eq op b2 0]
  revert op; decide

end Sys2Proof.Machine

/-! # The FETCH step, the EXECUTE step and the step-pair (O7, O8, O9, O10, O12, O18)

The FETCH phase is written out once for both instruction lengths (`fetchPhase_eq`): a one-byte instruction does not depend
on the byte after it, so the latch is always the decoding of the two bytes at `pc`. What a placed word and a step-pair do
follows from that and from the EXECUTE step (`step_runs_pending`). -/

namespace Sys2Proof.Machine

/-! ## The decoder on the two bytes at `pc` -/

/-- The second byte enters only where the first one asks for it (R53). -/
theorem decode_eq_of_oneByte {op : Byte} (h : isTwoByte op = false) (b2 b2' : Byte) : decode op b2 = decode op b2' := by
  cases op using firstByte_cases with
  | jcn | fim | jun | jms | isz => simp at h
  | _ => simp

/-- On two bytes the list decoder never falls short, and it leaves what the instruction's length does not cover. -/
theorem decode_of_decodeBytes_two {op b2 : Byte} {i : Instr} {rest : List Byte}
    (h : decodeBytes [op, b2] = .ok (i, rest)) : decode op b2 = i ∧ 2 - rest.length = instrLength op := by
  cases htwo : isTwoByte op with
  | false =>
    obtain ⟨rfl, rfl⟩ : decode op 0x00#8 = i ∧ [b2] = rest := by simpa [decodeBytes, htwo] using h
    exact ⟨decode_eq_of_oneByte htwo b2 _, by simp [instrLength, htwo]⟩
  | true =>
    obtain ⟨rfl, rfl⟩ : decode op b2 = i ∧ [] = rest := by simpa [decodeBytes, htwo] using h
    exact ⟨rfl, by simp [instrLength, htwo]⟩

/-- A table word that holds an instruction is the two bytes it is decoded from. -/
theorem exists_bytes_of_decodeTableWord {nbits w : Nat} {i : Instr} (h : decodeTableWord nbits w = some i) :
    ∃ op b2, tableBytes nbits w = [op, b2] ∧ decode op b2 = i := by
  refine ⟨_, _, rfl, ?_⟩
  rw [decodeTableWord] at h
  split at h
  next j rest hdec =>
    cases h
    exact (decode_of_decodeBytes_two hdec).1
  next => cases h

/-! ## The FETCH phase -/

/-- The instruction that the bytes at `pc` decode to. -/
def State.instrAtPc (s : State) : Instr := decode (s.progByte s.pc) (s.progByte (s.pc + 1))

/-- The program reads of the FETCH phase, with the bytes they answer (R73). -/
def State.fetchReads (s : State) : List PortCall :=
  .memRead s.pc (s.progByte s.pc) ::
    (if isTwoByte (s.progByte s.pc) then [.memRead (s.pc + 1) (s.progByte (s.pc + 1))] else [])

/-- The whole effect of the FETCH phase (R72 to R74). -/
theorem fetchPhase_eq (s : State) :
    fetchPhase s = { s with
      pc := s.pc + BitVec.ofNat 12 (instrLength (s.progByte s.pc))
      latch := some s.instrAtPc
      phase := .execute
      trace := s.trace ++ s.fetchReads } := by
  cases htwo : isTwoByte (s.progByte s.pc) with
  | false =>
    rw [fetchPhase_one htwo, decode_eq_of_oneByte htwo 0x00#8 (s.progByte (s.pc + 1))]
    simp only [State.fetchReads, instrLength, htwo]
    rfl
  | true =>
    rw [fetchPhase_two htwo, BitVec.add_assoc]
    simp only [State.latchInstr, State.setPc, State.record, State.instrAtPc, State.fetchReads, instrLength, htwo,
      List.append_assoc]
    rfl

@[simp] theorem fetchPhase_phase (s : State) : (fetchPhase s).phase = .execute := by rw [fetchPhase_eq]

@[simp] theorem fetchPhase_latch (s : State) : (fetchPhase s).latch = some s.instrAtPc := by rw [fetchPhase_eq]

@[simp] theorem fetchPhase_ccount (s : State) : (fetchPhase s).ccount = s.ccount := by rw [fetchPhase_eq]

theorem fetchPhase_trace_eq (s : State) : (fetchPhase s).trace = s.trace ++ s.fetchReads := by rw [fetchPhase_eq]

/-- `pc` moves past the bytes of the instruction, modulo 4096 (R73, R78). -/
theorem toNat_pc_fetchPhase (s : State) :
    (fetchPhase s).pc.toNat = (s.pc.toNat + instrLength (s.progByte s.pc)) % 4096 := by
  rw [fetchPhase_eq, BitVec.toNat_add, BitVec.toNat_ofNat, Nat.add_mod_mod]

theorem frame_fetchPhase (s : State) : Frame [.pc, .latch, .phase, .trace] s (fetchPhase s) := by
  intro c hc
  rw [fetchPhase_eq]
  cases c with
  | pc | latch | phase | trace => exact absurd (by simp) hc
  | _ => exact rfl

theorem frame_countCycle (s : State) : Frame [.ccount] s s.countCycle := by
  intro c hc
  cases c with
  | ccount => exact absurd (List.mem_singleton_self _) hc
  | _ => exact rfl

/-- What the FETCH step leaves unchanged. -/
theorem frame_fetchStep (s : State) : Frame [.pc, .latch, .phase, .ccount, .trace] s (fetchPhase s.countCycle) :=
  ((frame_countCycle s).trans (frame_fetchPhase _)).mono (by decide)

/-! ## The EXECUTE step and the step-pair -/

/-- The EXECUTE step runs the pending instruction, whatever it is (R75, R76). -/
theorem step_runs_pending {s : State} {i : Instr} (hp : s.phase = .execute) (hl : s.latch = some i) :
    ∃ t, exec i s.countCycle = .next t ∧ step s = .next t.retire := by
  obtain ⟨t, ht⟩ := exec_next i s.countCycle
  exact ⟨t, ht, step_of_execute hp hl ht⟩

/-- A step-pair ends in FETCH with one more instruction and two more cycles counted (R71, R79). -/
theorem stepPair_counts {s : State} (hp : s.phase = .fetch) :
    ∃ u t, step s = .next u ∧ step u = .next t ∧ t.phase = .fetch ∧ t.icount = s.icount + 1 ∧
      t.ccount = s.ccount + 2 := by
  obtain ⟨t, ht, hstep⟩ := step_runs_pending (fetchPhase_phase s.countCycle) (fetchPhase_latch s.countCycle)
  obtain ⟨_, _, hicount, hccount, _⟩ := exec_control ht
  refine ⟨_, _, step_of_fetch hp, hstep, rfl, ?_, ?_⟩
  · rw [State.retire_icount, hicount, State.countCycle_icount, fetchPhase_eq]
    rfl
  · rw [State.retire_ccount, hccount, State.countCycle_ccount, fetchPhase_ccount, State.countCycle_ccount]

/-! ## A word placed at `pc` -/

section WithProgramBytes

variable (s : State) (op b2 : Byte)

theorem progByte_withProgramBytes_pc : (s.withProgramBytes [op, b2]).progByte s.pc = op := by
  have hne : s.pc ≠ s.pc + 1 := by bv_omega
  calc (s.withProgramBytes [op, b2]).progByte s.pc
    _ = ((s.load s.pc op).load (s.pc + 1) b2).progByte s.pc := rfl
    _ = (s.load s.pc op).progByte s.pc := State.progByte_load_of_ne _ _ hne
    _ = op := State.progByte_load_self ..

theorem progByte_withProgramBytes_succ : (s.withProgramBytes [op, b2]).progByte (s.pc + 1) = b2 :=
  (s.load s.pc op).progByte_load_self (s.pc + 1) b2

theorem instrAtPc_withProgramBytes : (s.withProgramBytes [op, b2]).instrAtPc = decode op b2 :=
  congrArg₂ decode (progByte_withProgramBytes_pc s op b2) (progByte_withProgramBytes_succ s op b2)

theorem frame_withProgramBytes :
    Frame [.progByte s.pc, .progByte (s.pc + 1), .phase, .latch] s (s.withProgramBytes [op, b2]) := by
  intro c hc
  have hload : Frame [.progByte s.pc, .progByte (s.pc + 1)] s ((s.load s.pc op).load (s.pc + 1) b2) :=
    (frame_load s s.pc op).trans (frame_load _ (s.pc + 1) b2)
  cases c with
  | phase | latch => exact absurd (by simp) hc
  | _ => exact hload _ fun hmem => hc (List.mem_append_left [.phase, .latch] hmem)

end WithProgramBytes

/-! ## The obligations -/

/-- Settles O7: the effect of the FETCH phase, after the cycle is counted. -/
theorem fetchStepLatchesTheInstructionAtPc : Obligations.FetchStepLatchesTheInstructionAtPc :=
  fun s hp => ⟨_, step_of_fetch hp, fetchPhase_latch _, fetchPhase_phase _, toNat_pc_fetchPhase _, fetchPhase_ccount _,
    fetchPhase_trace_eq _, frame_fetchStep s⟩

/-- Settles O10: the two bytes stand at the old `pc`, so the FETCH phase has latched their decoding. -/
theorem placedWordRunsInTheNextStep : Obligations.PlacedWordRunsInTheNextStep := by
  intro s nbits w i h
  obtain ⟨op, b2, hbytes, rfl⟩ := exists_bytes_of_decodeTableWord h
  rw [State.withFetchWord, hbytes]
  have hfetch := frame_fetchStep (s.withProgramBytes [op, b2])
  have hlatch : (fetchPhase (s.withProgramBytes [op, b2]).countCycle).latch = some (decode op b2) :=
    (fetchPhase_latch _).trans (congrArg some (instrAtPc_withProgramBytes s op b2))
  refine ⟨?_, ?_, step_runs_pending (fetchPhase_phase _) hlatch⟩
  · have hread (a : Addr) : (fetchPhase (s.withProgramBytes [op, b2]).countCycle).progByte a =
        (s.withProgramBytes [op, b2]).progByte a := hfetch (.progByte a) (by simp)
    rw [hread, hread, progByte_withProgramBytes_pc, progByte_withProgramBytes_succ]
  · exact ((frame_withProgramBytes s op b2).trans hfetch).mono (by simp)

/-- Settles O12: execution commutes with any change of the four control fields, and leaves them as they are. -/
theorem executeNeverFailsNorTouchesControlState : Obligations.ExecuteNeverFailsNorTouchesControlState := by
  intro i s ph l ic cc
  obtain ⟨t, ht⟩ := exec_next i s
  obtain ⟨hphase, hlatch, hicount, hccount, _⟩ := exec_control ht
  exact ⟨t, ht, exec_withControl ht ph l ic cc, hphase, hlatch, hicount, hccount⟩

/-- Settles O18, by induction on the number of step-pairs: each ends in FETCH, where the next begins. -/
theorem stepPairsAreCounted : Obligations.StepPairsAreCounted := by
  intro k
  induction k with
  | zero => exact fun s hp => ⟨s, runSteps_zero s, hp, rfl, rfl⟩
  | succ k ih =>
    intro s hp
    obtain ⟨u, v, hu, hv, hvp, hvicount, hvccount⟩ := stepPair_counts hp
    obtain ⟨t, ht, htp, hticount, htccount⟩ := ih v hvp
    have hrun : runSteps (2 * (k + 1)) s = .next t := by
      rw [Nat.mul_succ, runSteps_succ hu, runSteps_succ hv, ht]
    exact ⟨t, hrun, htp, by omega, by omega⟩

/-- Settles O8: the engine is total, and the machine is back in FETCH after it. -/
theorem executeStepRunsThePendingInstruction : Obligations.ExecuteStepRunsThePendingInstruction :=
  fun _ _ hp hl => step_runs_pending hp hl

/-- Settles O9: the FETCH step latches what the bytes at `pc` decode to, and the EXECUTE step runs it. -/
theorem stepPairRunsTheDecodedInstruction : Obligations.StepPairRunsTheDecodedInstruction := by
  intro s i rest hp hdec
  obtain ⟨rfl, hlength⟩ := decode_of_decodeBytes_two hdec
  obtain ⟨t, ht, hstep⟩ := step_runs_pending (fetchPhase_phase s.countCycle) (fetchPhase_latch s.countCycle)
  rw [hlength]
  exact ⟨_, t, step_of_fetch hp, fetchPhase_latch _, fetchPhase_phase _, toNat_pc_fetchPhase _, frame_fetchStep s, ht,
    hstep⟩

end Sys2Proof.Machine

/-! # NOP and control transfer (O31, O32, O33, O34, O35, O36, O37)

The bytes of each statement are the encoding of its instruction (`or_nibble_eq_append`, `or_pair_eq_append`), so they
decode by `decodesTo_encode`. A call and a return are named as functions of the state (`State.call`, `State.ret`); that
calls nest is said once, for one call (`State.ret_of_call`). -/

namespace Sys2Proof.Machine

/-! ## Bytes put together by OR -/

/-- A nibble put into the empty low half of a first byte. -/
theorem or_nibble_eq_append (h n : Nibble) : (h ++ 0#4) ||| n.setWidth 8 = h ++ n := by
  revert h n; decide

/-- A pair index put into the empty bits 3 to 1 of a first byte. -/
theorem or_pair_eq_append (h : Nibble) (p : PairIdx) (b : BitVec 1) :
    (h ++ 0#3 ++ b : Byte) ||| p.setWidth 8 <<< 1 = h ++ p ++ b := by
  revert h p b; decide

/-! ## Targets of eight bits (R59) -/

theorem toNat_zext12 (v : Byte) : (zext12 v).toNat = v.toNat := by
  rw [zext12, BitVec.toNat_append, BitVec.toNat_zero, Nat.zero_shiftLeft, Nat.zero_or]

/-! ## The condition of JCN (R84) -/

/-- The condition is the truth table of the three tests. -/
theorem jcnCondition_eq_jcnTable (c acc : Nibble) (cy pin : Bool) :
    jcnCondition c acc cy pin = jcnTable c (decide (cy = false)) (decide (acc = 0)) pin := by
  rw [jcnCondition, show (acc == 0) = decide (acc = 0) from rfl]
  generalize decide (acc = 0) = z
  revert c z cy pin; decide

/-- Where the pin is not asked for, its value does not enter the condition. -/
theorem jcnCondition_of_not_asksPin {c : Nibble} (h : c.getLsbD 1 = false) (acc : Nibble) (cy pin : Bool) :
    jcnCondition c acc cy pin = jcnCondition c acc cy false := by
  simp only [jcnCondition, h, Bool.false_and]

/-- JCN goes to its address where the condition holds, and on in sequence where it does not. -/
theorem pc_jcn {c : Nibble} {a : Byte} {s t : State} (h : exec (.jcn c a) s = .next t) :
    t.pc = if jcnCondition c s.acc s.cy s.pinAnswer then zext12 a else s.pc := by
  cases hc : c.getLsbD 1 with
  | false =>
    rw [execJcn_of_not_asksPin hc] at h
    cases h
    rw [jcnCondition_of_not_asksPin hc _ _ s.pinAnswer]
  | true =>
    rw [execJcn_of_asksPin hc] at h
    cases h
    rfl

/-- JCN takes the answer of the pin where it asks for it. -/
theorem pinIn_jcn_of_asksPin {c : Nibble} {a : Byte} {s t : State} (hc : c.getLsbD 1 = true)
    (h : exec (.jcn c a) s = .next t) : t.pinIn = s.pinIn.tail := by
  rw [execJcn_of_asksPin hc] at h
  cases h
  rfl

/-! ## The increment of ISZ (R88) -/

theorem toNat_incNibble (v : Nibble) : (incNibble v).toNat = (v.toNat + 1) % 16 := BitVec.toNat_add v 1

theorem incNibble_eq_zero_iff {v : Nibble} : incNibble v = 0 ↔ v.toNat = 15 := by
  revert v; decide

/-! ## Calls and returns (R87, R89) -/

/-- The state after `JMS t`. -/
def State.call (s : State) (t : Addr) : State := (s.push s.pc).setPc t

/-- The state after `BBL d`. -/
def State.ret (s : State) (d : Nibble) : State := (s.pop.2.setPc s.pop.1).setAcc d

theorem exec_jms (t : Addr) (s : State) : exec (.jms t) s = .next (s.call t) := rfl

theorem exec_bbl (d : Nibble) (s : State) : exec (.bbl d) s = .next (s.ret d) := rfl

@[simp] theorem State.call_pc (s : State) (t : Addr) : (s.call t).pc = t := rfl
@[simp] theorem State.call_sp (s : State) (t : Addr) : (s.call t).sp = s.sp + 1 := rfl
@[simp] theorem State.slot_call_self (s : State) (t : Addr) : (s.call t).slot s.sp = s.pc := s.slot_push_self s.pc

theorem State.slot_call_of_ne (s : State) (t : Addr) {k : Fin 3} (h : k ≠ s.sp) : (s.call t).slot k = s.slot k :=
  s.slot_push_of_ne s.pc h

@[simp] theorem State.ret_pc (s : State) (d : Nibble) : (s.ret d).pc = s.slot (s.sp + 2) := rfl
@[simp] theorem State.ret_sp (s : State) (d : Nibble) : (s.ret d).sp = s.sp + 2 := rfl
@[simp] theorem State.ret_acc (s : State) (d : Nibble) : (s.ret d).acc = d := rfl
@[simp] theorem State.slot_ret (s : State) (d : Nibble) (k : Fin 3) : (s.ret d).slot k = s.slot k := rfl

theorem State.toNat_call_sp (s : State) (t : Addr) : (s.call t).sp.val = (s.sp.val + 1) % 3 := Fin.val_add s.sp 1

theorem State.toNat_ret_sp (s : State) (d : Nibble) : (s.ret d).sp.val = (s.sp.val + 3 - 1) % 3 := Fin.val_add s.sp 2

/-- A return goes back to where a call was made, and leaves the cursor where it was, if it finds the cursor and the slot
of that call as the call left them, whatever ran between the two. -/
theorem State.ret_of_call {s u : State} {t : Addr} (hsp : u.sp = (s.call t).sp)
    (hslot : u.slot s.sp = (s.call t).slot s.sp) (d : Nibble) : (u.ret d).pc = s.pc ∧ (u.ret d).sp = s.sp := by
  have hback : u.sp + 2 = s.sp := by
    rw [hsp, State.call_sp]
    generalize s.sp = k
    revert k; decide
  exact ⟨by rw [State.ret_pc, hback, hslot, State.slot_call_self], hback⟩

/-! ## What calls and returns leave unchanged -/

/-- What a run of calls and returns can write. -/
def callComponents : List Component := [.slot 0, .slot 1, .slot 2, .sp, .pc, .acc]

theorem slot_mem_callComponents (k : Fin 3) : .slot k ∈ callComponents := by
  revert k; decide

theorem frame_call (s : State) (t : Addr) : Frame callComponents s (s.call t) :=
  (exec_frame (exec_jms t s)).mono (List.cons_subset.mpr ⟨slot_mem_callComponents s.sp, by decide⟩)

theorem frame_ret (s : State) (d : Nibble) : Frame callComponents s (s.ret d) :=
  (exec_frame (exec_bbl d s)).mono (by rw [writes]; decide)

/-- Frames over one list compose to a frame over that list. -/
theorem Frame.trans_same {ws : List Component} {s t u : State} (hst : Frame ws s t) (htu : Frame ws t u) :
    Frame ws s u :=
  (hst.trans htu).mono (List.append_subset.mpr ⟨List.Subset.refl ws, List.Subset.refl ws⟩)

/-- A component that has its old value again leaves the list. -/
theorem Frame.erase_of_same {ws : List Component} {s t : State} {c : Component} (h : Frame ws s t) (hc : c.Same s t) :
    Frame (ws.erase c) s t := by
  intro c' hc'
  by_cases heq : c' = c
  · exact heq ▸ hc
  · exact h c' fun hmem => hc' ((List.mem_erase_of_ne heq).mpr hmem)

/-! ## The obligations -/

/-- Settles O31: the three meanings are the identity. -/
theorem nopWrrRdrChangeNothing : Obligations.NopWrrRdrChangeNothing :=
  ⟨decodesTo_encode .nop, decodesTo_encode .wrr, decodesTo_encode .rdr, fun _ => ⟨rfl, rfl, rfl⟩⟩

/-- Settles O32: the condition is the truth table, and the pin is sampled where condition bit 1 asks for it. -/
theorem jcnJumpsAsItsTruthTableSays : Obligations.JcnJumpsAsItsTruthTableSays := by
  intro c a s
  have hbyte : 0x10#8 ||| c.setWidth 8 = 0x1#4 ++ c := or_nibble_eq_append 0x1#4 c
  obtain ⟨t, ht⟩ := exec_next (.jcn c a) s
  have hpc := pc_jcn ht
  have hframe := frame_jcn ht
  have htrace := trace_jcn ht
  rw [jcnCondition_eq_jcnTable] at hpc
  rw [writes] at hframe
  rw [portCalls_jcn] at htrace
  refine ⟨hbyte ▸ decodesTo_encode (.jcn c a), t, ht, fun htable => ?jump, fun htable => ?stay, fun hc => ?asked,
    fun hc => ?unasked⟩
  case jump => rw [hpc, htable, if_pos rfl, toNat_zext12]
  case stay => rw [hpc, htable, if_neg Bool.false_ne_true]
  case asked =>
    rw [if_pos hc] at hframe htrace
    exact ⟨htrace, pinIn_jcn_of_asksPin hc ht, hframe⟩
  case unasked => rwa [hc, if_neg Bool.false_ne_true] at hframe

/-- Settles O33: the pair's byte, zero-extended, has the pair's value. -/
theorem jinSetsPcToThePairValue : Obligations.JinSetsPcToThePairValue := by
  intro p s
  have hbyte : 0x31#8 ||| p.setWidth 8 <<< 1 = 0x3#4 ++ p ++ 1#1 := or_pair_eq_append 0x3#4 p 1#1
  exact ⟨hbyte ▸ decodesTo_encode (.jin p), _, rfl, (toNat_zext12 _).trans (s.toNat_pairRead p), frame_setPc s _⟩

/-- Settles O34: JUN is one write of `pc`; JMS is a call. -/
theorem junAndJmsTransferControl : Obligations.JunAndJmsTransferControl := by
  intro a s
  have hjun : 0x40#8 ||| (a.extractLsb' 8 4).setWidth 8 = 0x4#4 ++ a.extractLsb' 8 4 := or_nibble_eq_append 0x4#4 _
  have hjms : 0x50#8 ||| (a.extractLsb' 8 4).setWidth 8 = 0x5#4 ++ a.extractLsb' 8 4 := or_nibble_eq_append 0x5#4 _
  exact ⟨hjun ▸ decodesTo_encode (.jun a), hjms ▸ decodesTo_encode (.jms a),
    ⟨s.setPc a, rfl, rfl, frame_setPc s a⟩,
    ⟨s.call a, rfl, s.slot_call_self a, s.toNat_call_sp a, rfl, exec_frame (exec_jms a s)⟩⟩

/-- Settles O35: the incremented register is zero exactly where it was 15. -/
theorem iszJumpsWhenTheRegisterWraps : Obligations.IszJumpsWhenTheRegisterWraps := by
  intro r a s
  have hbyte : 0x70#8 ||| r.setWidth 8 = 0x7#4 ++ r := or_nibble_eq_append 0x7#4 r
  refine ⟨hbyte ▸ decodesTo_encode (.isz r a), _, rfl, ?value, fun hwrap => ?jump, fun hwrap => ?stay,
    exec_frame (i := .isz r a) rfl⟩
  case value => rw [State.readReg_setPc, State.readReg_writeReg_self, toNat_incNibble]
  case jump => rw [State.setPc_pc, if_pos (incNibble_eq_zero_iff.mpr hwrap), toNat_zext12]
  case stay => rw [State.setPc_pc, if_neg (mt incNibble_eq_zero_iff.mp hwrap), State.writeReg_pc]

/-- Settles O36: BBL is a return. -/
theorem bblReturnsThroughTheStack : Obligations.BblReturnsThroughTheStack := by
  intro d s
  have hbyte : 0xC0#8 ||| d.setWidth 8 = 0xC#4 ++ d := or_nibble_eq_append 0xC#4 d
  exact ⟨hbyte ▸ decodesTo_encode (.bbl d), s.ret d, rfl, s.toNat_ret_sp d, rfl, rfl, exec_frame (exec_bbl d s)⟩

/-- Settles O37: three calls use three different slots, so each return finds the slot of its own call as it was left. -/
theorem threeNestedCallsReturnInOrder : Obligations.ThreeNestedCallsReturnInOrder := by
  intro t1 t2 t3 d1 d2 d3 s
  have hne1 (k : Fin 3) : k ≠ k + 1 := by revert k; decide
  have hne2 (k : Fin 3) : k ≠ k + 1 + 1 := by revert k; decide
  let s1 := s.call t1
  let s2 := s1.call t2
  let s3 := s2.call t3
  let a := s3.ret d3
  let b := a.ret d2
  let c := b.ret d1
  obtain ⟨hapc, hasp⟩ : a.pc = s2.pc ∧ a.sp = s2.sp := State.ret_of_call rfl rfl d3
  have haslot : a.slot s1.sp = s2.slot s1.sp := s2.slot_call_of_ne t3 (hne1 s1.sp)
  obtain ⟨hbpc, hbsp⟩ : b.pc = s1.pc ∧ b.sp = s1.sp := State.ret_of_call hasp haslot d2
  have hbslot : b.slot s.sp = s1.slot s.sp :=
    (s2.slot_call_of_ne t3 (hne2 s.sp)).trans (s1.slot_call_of_ne t2 (hne1 s.sp))
  obtain ⟨hcpc, hcsp⟩ : c.pc = s.pc ∧ c.sp = s.sp := State.ret_of_call hbsp hbslot d1
  have hcalls : Frame callComponents s s3 :=
    ((frame_call s t1).trans_same (frame_call s1 t2)).trans_same (frame_call s2 t3)
  have hrets : Frame callComponents s3 c :=
    ((frame_ret s3 d3).trans_same (frame_ret a d2)).trans_same (frame_ret b d1)
  exact ⟨a, b, c, rfl, hapc, rfl, rfl, hbpc, rfl, rfl, hcpc, rfl,
    (hcalls.trans_same hrets).erase_of_same (c := .sp) hcsp⟩

end Sys2Proof.Machine

/-! # Register and immediate instructions (O40, O41, O42, O43, O44, O45)

The arithmetic of ADD and SUB is said of `addNibbles` and `subNibbles`, apart from the state; the two instructions that
write a pair take what a written pair holds from `registerPairIsAViewOfTwoRegisters`. -/

namespace Sys2Proof.Machine

/-! ## Exact sums and differences (R94, R95) -/

theorem toNat_addNibbles (a v : Nibble) : (addNibbles a v).1.toNat = (a.toNat + v.toNat) % 16 :=
  BitVec.toNat_ofNat _ 4

theorem addNibbles_carry_iff (a v : Nibble) : (addNibbles a v).2 = true ↔ a.toNat + v.toNat > 15 :=
  decide_eq_true_iff

theorem toNat_subNibbles (a v : Nibble) (cy : Bool) :
    ((subNibbles a v cy).1.toNat : Int) = ((a.toNat : Int) - (v.toNat : Int) - (if cy then 0 else 1)) % 16 := by
  rw [subNibbles, BitVec.toNat_ofInt]
  exact Int.toNat_of_nonneg (Int.emod_nonneg _ (by decide))

theorem subNibbles_carry_iff (a v : Nibble) (cy : Bool) :
    (subNibbles a v cy).2 = true ↔ (a.toNat : Int) - (v.toNat : Int) - (if cy then 0 else 1) ≥ 0 :=
  decide_eq_true_iff

/-! ## The address of FIN (R92) -/

/-- The zero-extended pair is the pair's value as an address, since that value fits in eight bits. -/
theorem zext12_pairRead (s : State) (p : PairIdx) : zext12 (s.pairRead p) = BitVec.ofNat 12 (pairValue s p) := by
  rw [← s.toNat_pairRead, ← toNat_zext12, BitVec.ofNat_toNat, BitVec.setWidth_eq]

theorem exec_fin (p : PairIdx) (s : State) :
    exec (.fin p) s =
      .next ((s.record (.memRead (zext12 (s.pairRead 0)) (s.progByte (zext12 (s.pairRead 0))))).pairWrite p
        (s.progByte (zext12 (s.pairRead 0)))) := rfl

/-! ## The obligations -/

/-- Settles O40: FIM is one write of a pair. -/
theorem fimLoadsThePair : Obligations.FimLoadsThePair := by
  intro p d s
  obtain ⟨-, -, hlow, hhigh, hframe, hbytes, -⟩ := registerPairIsAViewOfTwoRegisters s p d
  exact ⟨hbytes, s.pairWrite p d, rfl, hlow, hhigh, hframe⟩

/-- Settles O41: the address is read off pair 0 before the byte found there is written to the target pair. -/
theorem finLoadsThePairFromProgramStorage : Obligations.FinLoadsThePairFromProgramStorage := by
  intro p s a
  have hexec := exec_fin p s
  rw [zext12_pairRead s 0] at hexec
  obtain ⟨-, -, hlow, hhigh, -, -, -, hbytes, -⟩ :=
    registerPairIsAViewOfTwoRegisters (s.record (.memRead a (s.progByte a))) p (s.progByte a)
  exact ⟨hbytes, _, hexec, hlow, hhigh, rfl, exec_frame hexec⟩

/-- Settles O42: INC is one write of its register. -/
theorem incIncrementsTheRegister : Obligations.IncIncrementsTheRegister := by
  intro r s
  have hbyte : 0x60#8 ||| r.setWidth 8 = 0x6#4 ++ r := or_nibble_eq_append 0x6#4 r
  refine ⟨hbyte ▸ decodesTo_encode (.inc r), _, rfl, ?value, frame_writeReg s r _⟩
  case value => rw [State.readReg_writeReg_self, toNat_incNibble]

/-- Settles O43: the sum that ADD narrows has two terms, and the carry is not one of them. -/
theorem addIgnoresTheIncomingCarry : Obligations.AddIgnoresTheIncomingCarry := by
  intro r s sum
  have hbyte : 0x80#8 ||| r.setWidth 8 = 0x8#4 ++ r := or_nibble_eq_append 0x8#4 r
  exact ⟨hbyte ▸ decodesTo_encode (.add r), _, rfl, toNat_addNibbles s.acc (s.readReg r),
    addNibbles_carry_iff s.acc (s.readReg r), frame_setAccCy s _⟩

/-- Settles O44: the difference is an integer until it is narrowed, so its sign is the borrow. -/
theorem subTreatsCarryAsNotBorrow : Obligations.SubTreatsCarryAsNotBorrow := by
  intro r s diff
  have hbyte : 0x90#8 ||| r.setWidth 8 = 0x9#4 ++ r := or_nibble_eq_append 0x9#4 r
  exact ⟨hbyte ▸ decodesTo_encode (.sub r), _, rfl, toNat_subNibbles s.acc (s.readReg r) s.cy,
    subNibbles_carry_iff s.acc (s.readReg r) s.cy, frame_setAccCy s _⟩

/-- Settles O45: LD and LDM are one write of the accumulator; XCH writes the register too, with the old accumulator. -/
theorem ldXchLdmMoveNibbles : Obligations.LdXchLdmMoveNibbles := by
  intro r d s
  have hld : 0xA0#8 ||| r.setWidth 8 = 0xA#4 ++ r := or_nibble_eq_append 0xA#4 r
  have hxch : 0xB0#8 ||| r.setWidth 8 = 0xB#4 ++ r := or_nibble_eq_append 0xB#4 r
  have hldm : 0xD0#8 ||| d.setWidth 8 = 0xD#4 ++ d := or_nibble_eq_append 0xD#4 d
  exact ⟨hld ▸ decodesTo_encode (.ld r), hxch ▸ decodesTo_encode (.xch r), hldm ▸ decodesTo_encode (.ldm d),
    ⟨s.setAcc (s.readReg r), rfl, rfl, frame_setAcc s _⟩,
    ⟨(s.setAcc (s.readReg r)).writeReg r s.acc, rfl, rfl, State.readReg_writeReg_self _ r s.acc,
      exec_frame (i := .xch r) rfl⟩,
    ⟨s.setAcc d, rfl, rfl, frame_setAcc s d⟩⟩

end Sys2Proof.Machine

/-! # Data memory and IO (O46, O47, O48, O49, O50)

Each of these instructions makes one port call. What a call does is said once for each shape: one that only passes a
value (`exec_of_record`), a status read (`readStatus_loads`), and a data read, whose answer is loaded (`exec_rdm`) or
enters the arithmetic of ADD and SUB (`exec_adm`, `exec_sbm`). -/

namespace Sys2Proof.Machine

/-! ## The value passed by DCL (R116) -/

theorem bankOf_eq_ofNat (a : Nibble) : bankOf a = BitVec.ofNat 2 (a.toNat % 4) := by
  revert a; decide

/-! ## The shapes of a port call (R42) -/

/-- An instruction that only passes a value to a port writes no core state. -/
theorem exec_of_record {i : Instr} {s : State} {c : PortCall} (h : exec i s = .next (s.record c)) :
    ∃ t, exec i s = .next t ∧ t.trace = s.trace ++ [c] ∧ Frame [.trace] s t :=
  ⟨s.record c, h, rfl, frame_record s c⟩

theorem exec_dcl (s : State) :
    exec .dcl s = .next (s.record (.bankSelect (BitVec.ofNat 2 (s.acc.toNat % 4)))) := by
  rw [← bankOf_eq_ofNat]
  rfl

/-- A status read loads the accumulator with its answer, whatever the channel. -/
theorem readStatus_loads (n : ChannelIdx) (s : State) :
    ∃ t m, readStatus n s = .next t ∧ m = s.statusIn.headD (Config.statusAnswer n s.trace) ∧ t.acc = m ∧
      t.statusIn = s.statusIn.tail ∧ t.trace = s.trace ++ [.statusRead n m] ∧ Frame [.acc, .statusIn, .trace] s t :=
  ⟨(s.statusRead n).2.setAcc (s.statusAnswer n), s.statusAnswer n, rfl, rfl, rfl, rfl, rfl, frame_readStatus rfl⟩

theorem exec_rdm (s : State) : exec .rdm s = .next (s.dataRead.2.setAcc s.dataAnswer) := rfl

/-- The accumulator that ADM adds to is the one before the read, which a data read does not touch. -/
theorem exec_adm (s : State) : exec .adm s = .next (s.dataRead.2.setAccCy (addNibbles s.acc s.dataAnswer)) := rfl

/-- The accumulator and the borrow of SBM are those before the read, which a data read does not touch. -/
theorem exec_sbm (s : State) : exec .sbm s = .next (s.dataRead.2.setAccCy (subNibbles s.acc s.dataAnswer s.cy)) := rfl

/-! ## The obligations -/

/-- Settles O46: SRC passes the pair's byte, whose value is the pair's. -/
theorem srcSendsThePairValue : Obligations.SrcSendsThePairValue := by
  intro p s
  have hbyte : 0x21#8 ||| p.setWidth 8 <<< 1 = 0x2#4 ++ p ++ 1#1 := or_pair_eq_append 0x2#4 p 1#1
  exact ⟨hbyte ▸ decodesTo_encode (.src p), s.record (.dataSetAddress (s.pairRead p)), s.pairRead p, rfl,
    s.toNat_pairRead p, rfl, frame_record s _⟩

/-- Settles O47: each writing instruction is one recorded call. -/
theorem portWritesPassTheAccumulator : Obligations.PortWritesPassTheAccumulator :=
  ⟨decodesTo_encode .wrm, decodesTo_encode .wmp, decodesTo_encode .wr0, decodesTo_encode .wr1, decodesTo_encode .wr2,
    decodesTo_encode .wr3, decodesTo_encode .dcl, fun s =>
    ⟨exec_of_record rfl, exec_of_record rfl, exec_of_record rfl, exec_of_record rfl, exec_of_record rfl,
      exec_of_record rfl, exec_of_record (exec_dcl s)⟩⟩

/-- Settles O48: RDM loads the answer of a data read; RD0 to RD3 are the status read of their channel. -/
theorem portReadsLoadTheAnswer : Obligations.PortReadsLoadTheAnswer :=
  ⟨decodesTo_encode .rdm, decodesTo_encode .rd0, decodesTo_encode .rd1, decodesTo_encode .rd2, decodesTo_encode .rd3,
    fun s =>
    ⟨⟨_, s.dataAnswer, exec_rdm s, rfl, rfl, rfl, rfl, exec_frame (exec_rdm s)⟩,
      readStatus_loads 0 s, readStatus_loads 1 s, readStatus_loads 2 s, readStatus_loads 3 s⟩⟩

/-- Settles O49: the sum that ADM narrows is that of ADD, with the answer of the data read in place of the register. -/
theorem admAddsTheNibbleRead : Obligations.AdmAddsTheNibbleRead :=
  ⟨decodesTo_encode .adm, fun s =>
    ⟨_, s.dataAnswer, exec_adm s, rfl, toNat_addNibbles s.acc s.dataAnswer, addNibbles_carry_iff s.acc s.dataAnswer,
      rfl, rfl, exec_frame (exec_adm s)⟩⟩

/-- Settles O50: the difference that SBM narrows is that of SUB, with the answer of the data read in place of the
register. -/
theorem sbmSubtractsTheNibbleRead : Obligations.SbmSubtractsTheNibbleRead :=
  ⟨decodesTo_encode .sbm, fun s =>
    ⟨_, s.dataAnswer, _, exec_sbm s, rfl, rfl, toNat_subNibbles s.acc s.dataAnswer s.cy,
      subNibbles_carry_iff s.acc s.dataAnswer s.cy, rfl, rfl, exec_frame (exec_sbm s)⟩⟩

end Sys2Proof.Machine

/-! # Accumulator and carry (O51, O52, O53, O54, O55, O56)

What each instruction computes is said of its nibble and its carry alone, apart from the state; the state enters only as
the place the result is written to. -/

namespace Sys2Proof.Machine

/-! ## Complement and transfer (R124, R127, R129) -/

/-- The subtraction from 15 never borrows, so its value is the exact difference. -/
theorem toNat_complementAcc (a : Nibble) : (complementAcc a).toNat = 15 - a.toNat :=
  BitVec.toNat_sub_of_le (BitVec.le_def.mpr (Nat.le_of_lt_succ a.isLt))

theorem toNat_carryDigit (cy : Bool) : (carryDigit cy).toNat = if cy then 1 else 0 :=
  apply_ite BitVec.toNat ..

theorem toNat_subtractDigit (cy : Bool) : (subtractDigit cy).toNat = if cy then 10 else 9 :=
  apply_ite BitVec.toNat ..

/-! ## Counting by one (R122, R128) -/

theorem toNat_incrementAcc (a : Nibble) : (incrementAcc a).1.toNat = (a.toNat + 1) % 16 := toNat_incNibble a

theorem incrementAcc_carry_iff (a : Nibble) : (incrementAcc a).2 = true ↔ (incrementAcc a).1.toNat = 0 :=
  beq_iff_eq.trans BitVec.toNat_inj.symm

theorem toNat_decrementAcc (a : Nibble) : ((decrementAcc a).1.toNat : Int) = ((a.toNat : Int) - 1) % 16 := by
  have hsub : (decrementAcc a).1.toNat = (15 + a.toNat) % 16 := BitVec.toNat_sub a 1
  omega

theorem decrementAcc_carry_iff (a : Nibble) : (decrementAcc a).2 = true ↔ (decrementAcc a).1.toNat ≠ 15 :=
  bne_iff_ne.trans (not_congr BitVec.toNat_inj.symm)

/-! ## Rotates of carry and accumulator (R125, R126)

Each fact is about the 32 patterns of the five bits, checked one by one. -/

theorem toNat_rotateLeft (a : Nibble) (cy : Bool) : (rotateLeft a cy).1.toNat = (2 * a.toNat + cy.toNat) % 16 := by
  revert a cy; decide

theorem rotateLeft_carry_iff (a : Nibble) (cy : Bool) : (rotateLeft a cy).2 = true ↔ a.toNat ≥ 8 := by
  revert a cy; decide

theorem toNat_rotateRight (a : Nibble) (cy : Bool) : (rotateRight a cy).1.toNat = a.toNat / 2 + 8 * cy.toNat := by
  revert a cy; decide

theorem rotateRight_carry_iff (a : Nibble) (cy : Bool) : (rotateRight a cy).2 = true ↔ a.toNat % 2 = 1 := by
  revert a cy; decide

theorem rotateRight_rotateLeft (a : Nibble) (cy : Bool) :
    rotateRight (rotateLeft a cy).1 (rotateLeft a cy).2 = (a, cy) := by
  revert a cy; decide

theorem rotateLeft_rotateRight (a : Nibble) (cy : Bool) :
    rotateLeft (rotateRight a cy).1 (rotateRight a cy).2 = (a, cy) := by
  revert a cy; decide

/-- Five places bring each of the five bits back to its own. -/
theorem rotateLeft_iterate_five (a : Nibble) (cy : Bool) : (Function.uncurry rotateLeft)^[5] (a, cy) = (a, cy) := by
  revert a cy; decide

/-! Runs of rotates write accumulator and carry over and over, and nothing else. -/

@[simp] theorem State.setAccCy_acc (s : State) (r : Nibble × Bool) : (s.setAccCy r).acc = r.1 := rfl
@[simp] theorem State.setAccCy_cy (s : State) (r : Nibble × Bool) : (s.setAccCy r).cy = r.2 := rfl

theorem State.setAccCy_setAccCy (s : State) (r r' : Nibble × Bool) : (s.setAccCy r).setAccCy r' = s.setAccCy r' := rfl

theorem State.setAccCy_self (s : State) : s.setAccCy (s.acc, s.cy) = s := rfl

theorem runActions_ral (hs : List HostAction) (s : State) :
    runActions (.execute .ral :: hs) s = runActions hs (s.setAccCy (rotateLeft s.acc s.cy)) := runActions_cons rfl

theorem runActions_rar (hs : List HostAction) (s : State) :
    runActions (.execute .rar :: hs) s = runActions hs (s.setAccCy (rotateRight s.acc s.cy)) := runActions_cons rfl

theorem runActions_replicate_ral (n : Nat) (s : State) :
    runActions (List.replicate n (.execute .ral)) s =
      .next (s.setAccCy ((Function.uncurry rotateLeft)^[n] (s.acc, s.cy))) := by
  induction n generalizing s with
  | zero => rfl
  | succ n ih =>
    rw [List.replicate_succ, runActions_ral, ih, State.setAccCy_setAccCy, State.setAccCy_acc, State.setAccCy_cy,
      Function.iterate_succ_apply, Function.uncurry_apply_pair]

/-! ## Decimal adjustment (R131) -/

theorem decimalAdjust_of_adjust {a : Nibble} {cy : Bool} (h : a.toNat > 9 ∨ cy = true) :
    decimalAdjust a cy = (a + 6, true) :=
  if_pos (by simpa using h)

/-! ## The keyboard code (R132) -/

theorem toNat_keyboardCode_of_oneHot {a : Nibble} {k : Nat} (hk : k < 4) (ha : a.toNat = 2 ^ k) :
    (keyboardCode a).toNat = k := by
  obtain rfl : a = BitVec.ofNat 4 (2 ^ k) := by rw [← ha, BitVec.ofNat_toNat, BitVec.setWidth_eq]
  clear ha
  revert k; decide

theorem toNat_keyboardCode_of_not_oneHot {a : Nibble} (h : ∀ k, k < 4 → a.toNat ≠ 2 ^ k) :
    (keyboardCode a).toNat = 15 := by
  revert a; decide

/-! ## The obligations -/

/-- Settles O51: each of the seven is one write of the accumulator, of the carry, or of both. -/
theorem clearComplementAndTransfer : Obligations.ClearComplementAndTransfer :=
  ⟨decodesTo_encode .clb, decodesTo_encode .clc, decodesTo_encode .cmc, decodesTo_encode .cma, decodesTo_encode .tcc,
    decodesTo_encode .tcs, decodesTo_encode .stc, fun s =>
    ⟨⟨_, rfl, rfl, rfl, frame_setAcc_setCy s 0 false⟩,
      ⟨_, rfl, rfl, frame_setCy s false⟩,
      ⟨_, rfl, rfl, frame_setCy s (!s.cy)⟩,
      ⟨_, rfl, toNat_complementAcc s.acc, frame_setAcc s _⟩,
      ⟨_, rfl, toNat_carryDigit s.cy, rfl, frame_setAcc_setCy s _ false⟩,
      ⟨_, rfl, toNat_subtractDigit s.cy, rfl, frame_setAcc_setCy s _ false⟩,
      ⟨_, rfl, rfl, frame_setCy s true⟩⟩⟩

/-- Settles O52: the carry of each is a test of the accumulator it leaves. -/
theorem iacAndDacCountModuloSixteen : Obligations.IacAndDacCountModuloSixteen :=
  ⟨decodesTo_encode .iac, decodesTo_encode .dac, fun s =>
    ⟨⟨_, rfl, toNat_incrementAcc s.acc, incrementAcc_carry_iff s.acc, frame_setAccCy s _⟩,
      ⟨_, rfl, toNat_decrementAcc s.acc, decrementAcc_carry_iff s.acc, frame_setAccCy s _⟩⟩⟩

/-- Settles O53: RAL doubles modulo 16 and takes the carry in below, RAR halves and takes it in above. -/
theorem ralAndRarRotateThroughCarry : Obligations.RalAndRarRotateThroughCarry :=
  ⟨decodesTo_encode .ral, decodesTo_encode .rar, fun s =>
    ⟨⟨_, rfl, toNat_rotateLeft s.acc s.cy, rotateLeft_carry_iff s.acc s.cy, frame_setAccCy s _⟩,
      ⟨_, rfl, toNat_rotateRight s.acc s.cy, rotateRight_carry_iff s.acc s.cy, frame_setAccCy s _⟩⟩⟩

/-- Settles O54: a run of rotates is one write of accumulator and carry, and here the value written is the old one. -/
theorem rotatesUndoEachOther : Obligations.RotatesUndoEachOther := by
  intro s
  refine ⟨?leftRight, ?rightLeft, ?fiveLeft⟩
  case leftRight =>
    rw [runActions_ral, runActions_rar, State.setAccCy_setAccCy, State.setAccCy_acc, State.setAccCy_cy,
      rotateRight_rotateLeft, State.setAccCy_self, runActions_nil]
  case rightLeft =>
    rw [runActions_rar, runActions_ral, State.setAccCy_setAccCy, State.setAccCy_acc, State.setAccCy_cy,
      rotateLeft_rotateRight, State.setAccCy_self, runActions_nil]
  case fiveLeft => rw [runActions_replicate_ral, rotateLeft_iterate_five, State.setAccCy_self]

/-- Settles O55: DAA writes the adjusted pair, which where nothing is adjusted is the pair it read. -/
theorem daaAdjustsAboveNineOrWithCarry : Obligations.DaaAdjustsAboveNineOrWithCarry := by
  refine ⟨decodesTo_encode .daa, fun s => ⟨_, rfl, ?adjust, ?keep, frame_setAccCy s (decimalAdjust s.acc s.cy)⟩⟩
  case adjust =>
    intro hadj
    rw [decimalAdjust_of_adjust hadj]
    exact ⟨BitVec.toNat_add s.acc 6, rfl⟩
  case keep => exact fun hadj => Host.Outcome.next.inj (execDaa_of_not_adjust hadj)

/-- Settles O56: KBP is one write of the accumulator, so neither the carry nor the port trace changes. -/
theorem kbpGivesTheBitIndexOrFifteen : Obligations.KbpGivesTheBitIndexOrFifteen :=
  ⟨decodesTo_encode .kbp, fun s => ⟨s.setAcc (keyboardCode s.acc), rfl, fun _ => toNat_keyboardCode_of_oneHot,
    toNat_keyboardCode_of_not_oneHot, frame_setAcc s _⟩⟩

end Sys2Proof.Machine

/-! # UNKNOWN and the diagnostic channel (O57)

The diagnostic channel is read off the calls appended to the port trace (`State.diagnostics_of_calls`): the FETCH step
appends program reads only, the EXECUTE step of UNKNOWN one record. An unmapped byte asks for no second one, so `pc`
moves by one, and after both steps the phase is FETCH again. -/

namespace Sys2Proof.Machine

/-! ## The diagnostic channel (R41) -/

theorem State.diagnostics_of_calls {s t : State} {calls : List PortCall} (h : t.trace = s.trace ++ calls) :
    t.diagnostics = s.diagnostics ++ calls.filterMap diagnosticOf? := by
  rw [State.diagnostics, h, List.filterMap_append, State.diagnostics]

theorem State.diagnostics_of_reads {s t : State} {reads : List (Addr × Byte)}
    (h : t.trace = s.trace ++ reads.map fun r => .memRead r.1 r.2) : t.diagnostics = s.diagnostics := by
  simp [State.diagnostics_of_calls h, List.filterMap_map, Function.comp_def, diagnosticOf?]

/-- The FETCH phase reports nothing, whatever it latches (R73). -/
@[simp] theorem diagnostics_fetchPhase (s : State) : (fetchPhase s).diagnostics = s.diagnostics := by
  obtain ⟨reads, htrace⟩ := fetchPhase_trace s
  exact State.diagnostics_of_reads htrace

@[simp] theorem State.diagnostics_countCycle (s : State) : s.countCycle.diagnostics = s.diagnostics := rfl

@[simp] theorem State.diagnostics_retire (s : State) : s.retire.diagnostics = s.diagnostics := rfl

@[simp] theorem State.diagnostics_raiseDecodeFailure (s : State) :
    s.raiseDecodeFailure.diagnostics = s.diagnostics ++ [.unknownOpcode] :=
  s.diagnostics_record (.diag .unknownOpcode)

/-! ## An unmapped byte is one byte long (R61, decision D18) -/

theorem isTwoByte_of_decode_eq_unknown {op b2 : Byte} (h : decode op b2 = .unknown) : isTwoByte op = false := by
  rw [← Bool.not_eq_true, ← mnemonic_decode_mem_iff_isTwoByte op b2, h]
  decide

/-- The FETCH phase moves `pc` past an unmapped byte by one (R73, R78). -/
theorem pc_fetchPhase_of_unknown {s : State} (h : s.instrAtPc = .unknown) : (fetchPhase s).pc = s.pc + 1 := by
  rw [fetchPhase_eq, instrLength, isTwoByte_of_decode_eq_unknown h]
  rfl

/-! ## The EXECUTE step -/

theorem frame_retire (s : State) : Frame [.phase, .latch, .icount] s s.retire := by
  intro c hc
  cases c with
  | phase | latch | icount => exact absurd (by simp) hc
  | _ => exact rfl

/-- What the EXECUTE step leaves unchanged: all but what the instruction writes and the step's own fields. -/
theorem frame_executeStep {i : Instr} {s t : State} (h : exec i s.countCycle = .next t) :
    Frame (writes i s.countCycle ++ [.ccount, .phase, .latch, .icount]) s t.retire :=
  (((frame_countCycle s).trans (exec_frame h)).trans (frame_retire t)).mono (by simp)

theorem exec_unknown (s : State) : exec .unknown s = .next s.raiseDecodeFailure := rfl

/-! ## The obligation -/

/-- Settles O57: UNKNOWN is one record on the channel; FETCH reports nothing and latches it, EXECUTE records it and
returns to FETCH. -/
theorem unknownEmitsOneDiagnosticAndGoesOn : Obligations.UnknownEmitsOneDiagnosticAndGoesOn := by
  refine ⟨rfl, fun s => ⟨s.raiseDecodeFailure, rfl, s.diagnostics_raiseDecodeFailure, rfl, frame_record s _⟩, ?stepPair⟩
  case stepPair =>
    intro s hp hdec
    have hlatch : (fetchPhase s.countCycle).latch = some .unknown := (fetchPhase_latch _).trans (congrArg some hdec)
    have hframe : Frame [.phase, .pc, .icount, .ccount, .latch, .trace] s
        (fetchPhase s.countCycle).countCycle.raiseDecodeFailure.retire :=
      ((frame_fetchStep s).trans (frame_executeStep (exec_unknown _))).mono (by simp [writes])
    obtain ⟨_, _, hicount, _⟩ := fetchPhase_bookkeeping s.countCycle
    exact ⟨_, _, step_of_fetch hp, by simp, step_of_execute (fetchPhase_phase _) hlatch (exec_unknown _), by simp,
      pc_fetchPhase_of_unknown hdec, congrArg (· + 1) hicount, hframe.erase_of_same (c := .phase) hp.symm⟩

end Sys2Proof.Machine

/-! # The wrap of the program counter, page zero, reset and the depth of the stack (O26, O27, O29, O38)

Hazards a program must respect (R159 to R161) and the reset between two steps (R153). Of four nested calls, the last
three return in order (`threeNestedCallsReturnInOrder`), and the cursor then stands one past the slot that the first call
wrote and the fourth overwrote. -/

namespace Sys2Proof.Machine

/-! ## Targets in page zero (R160) -/

theorem toNat_zext12_le (v : Byte) : (zext12 v).toNat ≤ 0xFF :=
  (toNat_zext12 v).trans_le (Nat.le_of_lt_succ v.isLt)

/-- A conditional jump to an address of eight bits goes on in sequence or lands in page zero. -/
theorem eq_or_toNat_le_of_ite_zext12 {q : Prop} [Decidable q] {pc pc' : Addr} {a : Byte}
    (h : pc' = if q then zext12 a else pc) : pc' = pc ∨ pc'.toNat ≤ 0xFF := by
  split at h
  · exact .inr (h ▸ toNat_zext12_le a)
  · exact .inl h

/-- Of the writers of `pc`, those with a target of eight bits keep it or set it to an address in page zero; the other
instructions keep it. -/
theorem pc_exec_eq_or_toNat_le {i : Instr} {s t : State} (h : exec i s = .next t)
    (hi : i.mnemonic ∉ [.jun, .jms, .bbl]) : t.pc = s.pc ∨ t.pc.toNat ≤ 0xFF := by
  cases i with
  | jcn c a => exact eq_or_toNat_le_of_ite_zext12 (pc_jcn h)
  | isz r a => cases h; exact eq_or_toNat_le_of_ite_zext12 rfl
  | jin p => cases h; exact .inr (toNat_zext12_le (s.pairRead p))
  | jun | jms | bbl => simp [Instr.mnemonic, Instr.raw] at hi
  | _ =>
    have hpc : Component.pc.Same s t :=
      exec_same_of_not_mem_writers h (by simp [writers, Instr.mnemonic, Instr.raw])
    exact .inl hpc

/-! ## The FETCH step at the top of program storage (R161) -/

theorem pc_fetchPhase (s : State) :
    (fetchPhase s).pc = s.pc + BitVec.ofNat 12 (instrLength (s.progByte s.pc)) := by rw [fetchPhase_eq]

/-! ## Runs of calls and returns (R77) -/

theorem runActions_jms (t : Addr) (hs : List HostAction) (s : State) :
    runActions (.execute (.jms t) :: hs) s = runActions hs (s.call t) := runActions_cons (exec_jms t s)

theorem runActions_bbl (d : Nibble) (hs : List HostAction) (s : State) :
    runActions (.execute (.bbl d) :: hs) s = runActions hs (s.ret d) := runActions_cons (exec_bbl d s)

theorem eq_ret_of_runActions_bbl {d : Nibble} {s t : State} (h : runActions [.execute (.bbl d)] s = .next t) :
    t = s.ret d := by
  rw [runActions_bbl, runActions_nil] at h
  exact (Host.Outcome.next.inj h).symm

/-! ## The obligations -/

/-- Settles O38: the second, third and fourth call are three nested calls from the state after the first, and undone they
leave the cursor one past the slot of the first call, which the fourth call has overwritten. -/
theorem fourthNestedCallLosesTheOldestReturn : Obligations.FourthNestedCallLosesTheOldestReturn := by
  refine ⟨fun t1 t2 t3 t4 d1 d2 d3 d4 s => ?overflow, fun d => ⟨State.reset.ret d, exec_bbl d _, rfl, rfl⟩⟩
  case overflow =>
    let s1 := s.call t1
    let s3 := (s1.call t2).call t3
    obtain ⟨a, b, c, ha, hapc, -, hb, hbpc, -, hc, hcpc, -, hframe⟩ := threeNestedCallsReturnInOrder t2 t3 t4 d2 d3 d4 s1
    have hcsp : c.sp = s1.sp := hframe .sp (by decide)
    have hback : c.sp + 2 = s3.sp := by rw [hcsp]; exact (add_assoc s1.sp 1 1).symm
    have hepc : (c.ret d1).pc = t3 := by
      simp only [runActions_jms] at ha
      rw [State.ret_pc, hback, eq_ret_of_runActions_bbl hc, eq_ret_of_runActions_bbl hb, eq_ret_of_runActions_bbl ha]
      simp only [State.slot_ret]
      exact s3.slot_call_self t4
    have hframe' : Frame callComponents s (c.ret d1) :=
      ((frame_call s t1).trans_same (hframe.mono (by decide))).trans_same (frame_ret c d1)
    exact ⟨a, b, c, c.ret d1, (runActions_jms t1 _ s).trans ha, hapc, hb, hbpc, hc, hcpc, runActions_bbl d1 [] c,
      hepc, hframe'⟩

/-- Settles O26: JCN, ISZ and JIN, and the read of FIN, take their address from a byte. -/
theorem eightBitTargetsStayInPageZero : Obligations.EightBitTargetsStayInPageZero :=
  ⟨fun _ _ _ h hi => pc_exec_eq_or_toNat_le h hi,
    fun p s => ⟨_, _, exec_fin p s, toNat_zext12_le (s.pairRead 0), rfl⟩⟩

/-- Settles O27: the FETCH step adds the length of the instruction to `pc` modulo 4096 and reports nothing. -/
theorem programCounterWrapsAtTheTop : Obligations.ProgramCounterWrapsAtTheTop := by
  intro s hp htop
  have hpc : (fetchPhase s.countCycle).pc = 0xFFF + BitVec.ofNat 12 (instrLength (s.progByte 0xFFF)) :=
    htop ▸ pc_fetchPhase s.countCycle
  have hlatch : (fetchPhase s.countCycle).latch = some (decode (s.progByte 0xFFF) (s.progByte (0xFFF + 1))) :=
    htop ▸ fetchPhase_latch s.countCycle
  refine ⟨_, step_of_fetch hp, diagnostics_fetchPhase _, fun hone => ?oneByte, fun htwo => ⟨?twoBytes, hlatch⟩⟩
  case oneByte => rw [hpc, instrLength, hone]; rfl
  case twoBytes => rw [hpc, instrLength, htwo]; rfl

/-- Settles O29: the state after a reset is in FETCH at 0x000 whatever was pending, so the next step is a FETCH step. -/
theorem resetDiscardsThePendingInstruction : Obligations.ResetDiscardsThePendingInstruction := by
  intro s i _ _
  have hrun : runActions [.reset, .step] s = .next (fetchPhase s.hostReset.countCycle) :=
    runActions_cons (t := s.hostReset) rfl
  have hframe := frame_fetchStep s.hostReset
  exact ⟨_, hrun, hframe .icount (by decide), fetchPhase_latch _, hframe .acc (by decide),
    fun r => Eq.trans (hframe (.reg r) (by simp)) (s.readReg_hostReset r), fetchPhase_reads_pc s.hostReset.countCycle⟩

end Sys2Proof.Machine
